-- ==== Sys2Proof/Word.lean ====
section
/-! DEFINITION. The word of this hardware: the byte (00_scope.md rule R12). Time is an unbounded
non-negative integer (rules R16, R307), a plain Nat. -/

namespace Sys2Proof

/-- A byte, an unsigned integer 0..255 whose addition wraps (R12, R124). -/
abbrev Byte := BitVec 8

/-- A Transport Block, a queue entry or a buffer: a byte sequence, index 0 first on the wire (R13, R60).
That it has 128 bytes is an invariant of the state (R48), not part of the type. -/
abbrev Block := List Byte

/-- The radio stack's identifier of the peer, opaque to this hardware (R30, 91_not_in_source.md N18).
DESIGN CHOICE (notes/assumptions/10.md): a number that no rule computes with. -/
abbrev Handle := Nat

/-- `zeros(n)` of R13. -/
def zeros (n : Nat) : List Byte := List.replicate n 0

end Sys2Proof
end

