-- ==== Sys2Proof/Config.lean ====
section
/-! DEFINITION. The parameters of 00_scope.md rules R8 to R10, the reference configuration of 92_eei_decisions.md,
and the inputs of the machine: everything the environment may choose, with the one free value that chooses it. -/

namespace Sys2Proof

/-- The frame marker (R8, R91). -/
def sync : Byte := 0xA5
/-- BLOCK_SIZE (R8). -/
def blockSize : Nat := 128
/-- ID_PING (R8, R96). -/
def idPing : Byte := 0x50
/-- ID_TELEMETRY (R8, R96). -/
def idTelemetry : Byte := 0x60
/-- FRAME_OVERHEAD (R9): sync, id and checksum. -/
def frameOverhead : Nat := 3
/-- MAX_PAYLOAD (R9), 125. -/
def maxPayload : Nat := blockSize - frameOverhead
/-- MAX_DECL_PLEN (R9), the payload length of Telemetry. -/
def maxDeclPlen : Nat := 2
/-- MAX_DECL_FRAME (R9), 5. -/
def maxDeclFrame : Nat := maxDeclPlen + frameOverhead

/-- `ACT_PARAM[ch][cmd]` (R10, R191): six opaque parameters.
DESIGN CHOICE (notes/assumptions/10.md): numbers that no rule computes with. -/
structure ActParam where
  liftExtend : Nat
  liftRetract : Nat
  liftBrake : Nat
  tiltExtend : Nat
  tiltRetract : Nat
  tiltBrake : Nat
  deriving DecidableEq, Repr, Inhabited

/-- The open parameters of R10, fixed during an execution (R20, R45). -/
structure Config where
  /-- ID_LIFT_EXTEND -/
  idLiftExtend : Byte
  /-- ID_LIFT_RETRACT -/
  idLiftRetract : Byte
  /-- ID_LIFT_BRAKE -/
  idLiftBrake : Byte
  /-- ID_TILT_EXTEND -/
  idTiltExtend : Byte
  /-- ID_TILT_RETRACT -/
  idTiltRetract : Byte
  /-- ID_TILT_BRAKE -/
  idTiltBrake : Byte
  /-- QUEUE_CAP -/
  queueCap : Nat
  /-- MIN_SEND_INTERVAL -/
  minSendInterval : Nat
  /-- BACKOFF_WINDOW -/
  backoffWindow : Nat
  /-- QUEUE_WAIT_TIMEOUT -/
  queueWaitTimeout : Nat
  /-- XFER_TIMEOUT -/
  xferTimeout : Nat
  /-- TICK, the unit of every time and duration (R16, D6), in microseconds (notes/assumptions/22.md). No rule computes with it. -/
  tick : Nat
  /-- TIME_W, the width in bits of a hardware time counter (R307, R337); `now` itself is unbounded. -/
  timeW : Nat
  /-- AUX_FIELDS: the widths in bytes of the auxiliary readings -/
  auxFields : List Nat
  /-- DEC_FLUSH_AT_BLOCK_END -/
  decFlushAtBlockEnd : Bool
  /-- ACT_PARAM -/
  actParam : ActParam
  deriving DecidableEq, Repr, Inhabited

/-- AUX_LEN, the sum of the field widths (R10). -/
def Config.auxLen (c : Config) : Nat := c.auxFields.sum

/-- The eight identifiers of R96. -/
def Config.ids (c : Config) : List Byte :=
  [idPing, c.idLiftExtend, c.idLiftRetract, c.idLiftBrake, c.idTiltExtend, c.idTiltRetract, c.idTiltBrake, idTelemetry]

/-- REFCFG (92_eei_decisions.md), with ACT_PARAM, which it leaves opaque, at 0.
DESIGN CHOICE (notes/assumptions/1.md, 10.md): the configuration that State.reset holds, no claim about the device. -/
def Config.refcfg : Config where
  idLiftExtend := 0x30
  idLiftRetract := 0x31
  idLiftBrake := 0x32
  idTiltExtend := 0x40
  idTiltRetract := 0x41
  idTiltBrake := 0x42
  queueCap := 32
  minSendInterval := 100
  backoffWindow := 2000
  queueWaitTimeout := 100
  xferTimeout := 100
  tick := 1000
  timeW := 32
  auxFields := [2, 2]
  decFlushAtBlockEnd := false
  actParam := ⟨0, 0, 0, 0, 0, 0⟩

/-! ## What the environment can do -/

/-- The two devices (R3). -/
inductive Device where
  | bridge
  | controller
  deriving DecidableEq, Repr, Inhabited

/-- The asynchronous events of the bridge (R293). -/
inductive Event where
  /-- `wireless_rx(p)`: a wireless payload of any length. -/
  | wirelessRx (p : List Byte)
  /-- `connect(h)`. -/
  | connect (h : Handle)
  /-- `disconnect`. -/
  | disconnect
  deriving DecidableEq, Repr, Inhabited

/-- The two `frame_encoder` register sets (R25, R127). -/
inductive EncSel where
  | encB
  | encC
  deriving DecidableEq, Repr, Inhabited

/-- The two `frame_decoder`s of the controller (R169). -/
inductive DecSel where
  | decBlk
  | decUart
  deriving DecidableEq, Repr, Inhabited

/-- The input ports of a `frame_encoder` in one clock cycle (R128). -/
structure EncIn where
  start : Bool
  idIn : Byte
  lenIn : Byte
  pValid : Bool
  pData : Byte
  oReady : Bool
  deriving DecidableEq, Repr, Inhabited

/-- The input ports of a byte-serial `frame_decoder` in one clock cycle (R170). -/
structure DecIn where
  inValid : Bool
  inData : Byte
  flush : Bool
  deriving DecidableEq, Repr, Inhabited

/-- The draws one agent step may use (R15, R20). None is state of the hardware. -/
structure Pins where
  /-- Ticks by which the bridge's `now` has advanced since the last agent step; `now` never decreases (R16). -/
  dt : Nat
  /-- The same for the controller's `now` (R307: one time input per device). -/
  dtC : Nat
  /-- Edges of the consumer's clock since the last agent step (R39, R210). -/
  clkC : Nat
  /-- `telem_in`, drawn when c_tx is composed (R211). -/
  telemIn : Option (Byte × Byte)
  /-- `aux_in`, the bridge's readings, drawn when a notification is built (R240). -/
  auxIn : List Nat
  /-- The outcome of a block exchange (R206). -/
  xferOk : Bool
  /-- The outcome of `radio_send`, true for ok (R242). -/
  sendOk : Bool
  /-- The bytes the UART source delivers at this poll (R213). -/
  uartIn : List Byte
  /-- What b_rx holds after a failed exchange (93_implementation_defined.md U7). -/
  bRxFail : Block
  /-- What c_rx holds after a failed exchange (U7). -/
  cRxFail : Block
  deriving DecidableEq, Repr, Inhabited

/-- Every draw at its quietest: no time passes, nothing is delivered, nothing fails. -/
def Pins.quiet : Pins where
  dt := 0
  dtC := 0
  clkC := 0
  telemIn := none
  auxIn := []
  xferOk := true
  sendOk := true
  uartIn := []
  bRxFail := []
  cRxFail := []

/-- Who takes the next atomic step (R11, R214). `CML` has three steps of its own, any enabled one of which may fire. -/
inductive Agent where
  /-- The bridge's event context. -/
  | evt
  /-- The bridge's main loop. -/
  | bml
  /-- The joint exchange step (R206). -/
  | exchange
  /-- The controller composes its block (R211). -/
  | compose
  /-- The controller decodes the received block, or dispatches the next decoded frame (R212, R182). -/
  | cml
  /-- The controller takes what the UART source has delivered (R213). -/
  | uart
  deriving DecidableEq, Repr, Inhabited

/-- One stimulus: what happens next. The order of stimuli is the environment's (R76, R297). -/
inductive Stim where
  /-- An event reaches the event context, which handles it in arrival order (R293). -/
  | arrive (e : Event)
  /-- An agent takes one atomic step with the given draws. A step that is not enabled changes nothing. -/
  | run (a : Agent) (p : Pins)
  /-- The bridge device is reset (R321, R324). -/
  | resetBridge
  /-- The main controller is reset (R321, R324). -/
  | resetController
  /-- One clock cycle of a byte-serial encoder (R128 to R136). -/
  | encClk (e : EncSel) (i : EncIn)
  /-- One clock cycle of a byte-serial decoder (R170). -/
  | decClk (d : DecSel) (i : DecIn)
  deriving DecidableEq, Repr, Inhabited

/-- The environment's free choice of the n-th stimulus nobody supplied (R15 `draw`, R76, R297).
A FREE VALUE with no body (notes/assumptions/2.md): a proof about a step holds for every choice. -/
opaque Config.freeStim : Nat → Stim

end Sys2Proof
end

