-- ==== Sys2Proof/Syntax.lean ====
section
/-! DEFINITION. The instructions: the frames of 30_encoding.md, one constructor for each row of spec/opcode_table.json. -/

namespace Sys2Proof

/-- The two actuator channels (R8, 92_eei_decisions.md D4): lift is channel 0, tilt is channel 1. -/
inductive Channel where
  | lift
  | tilt
  deriving DecidableEq, Repr, Inhabited

/-- The actuator commands (R41, R191). -/
inductive Cmd where
  | extend
  | retract
  | brake
  deriving DecidableEq, Repr, Inhabited

/-- The closed set of eight Command Kinds (R96). -/
inductive Kind where
  | ping
  | liftExtend
  | liftRetract
  | liftBrake
  | tiltExtend
  | tiltRetract
  | tiltBrake
  | telemetry
  deriving DecidableEq, Repr, Inhabited

/-- A frame: the eight kinds (R96) and the notification form of Telemetry (R99).
Sync, identifier and checksum are not operands: the first is constant, the second is the kind's, the third is computed. -/
inductive Instr where
  /-- PING -/
  | ping
  /-- LIFT.EXTEND -/
  | liftExtend
  /-- LIFT.RETRACT -/
  | liftRetract
  /-- LIFT.BRAKE -/
  | liftBrake
  /-- TILT.EXTEND -/
  | tiltExtend
  /-- TILT.RETRACT -/
  | tiltRetract
  /-- TILT.BRAKE -/
  | tiltBrake
  /-- TELEM D1, D2 -/
  | telem (d1 d2 : Byte)
  /-- TELEM.NOTIFY D1, D2; aux -/
  | telemNotify (d1 d2 : Byte) (aux : List Byte)
  deriving DecidableEq, Repr, Inhabited

end Sys2Proof
end

