-- ==== Sys2Proof/WellFormed.lean ====
section
/-! DEFINITION. Which configurations and which instructions the spec admits. -/

namespace Sys2Proof

/-- The eight identifiers are pairwise distinct (R98). -/
def Config.idsDistinct (c : Config) : Bool := decide c.ids.Nodup

/-- The other constraints of R10. -/
def Config.inRange (c : Config) : Bool :=
  decide (1 ≤ c.queueCap) && decide (0 < c.backoffWindow) && decide (0 < c.queueWaitTimeout)
    && decide (0 < c.xferTimeout) && decide (c.auxLen ≤ 123)

/-- A configuration the hardware may be given (R323). -/
def Config.wf (c : Config) : Bool := c.idsDistinct && c.inRange

/-- The auxiliary bytes of a notification are AUX_LEN bytes (R99); the other forms have operands of fixed width. -/
def Instr.wf (c : Config) : Instr → Bool
  | .ping => true
  | .liftExtend => true
  | .liftRetract => true
  | .liftBrake => true
  | .tiltExtend => true
  | .tiltRetract => true
  | .tiltBrake => true
  | .telem _ _ => true
  | .telemNotify _ _ aux => decide (aux.length = c.auxLen)

/-- The forms `frame_decoder` can return: the eight kinds, not the output-only notification (R99, R104). -/
def Instr.decodable : Instr → Bool
  | .ping => true
  | .liftExtend => true
  | .liftRetract => true
  | .liftBrake => true
  | .tiltExtend => true
  | .tiltRetract => true
  | .tiltBrake => true
  | .telem _ _ => true
  | .telemNotify _ _ _ => false

end Sys2Proof
end

