-- ==== Sys2Proof/Decode.lean ====
section
/-! DEFINITION. `frame_decoder`'s step and run (41_frame_decoder.md), the Command Model's lookup (42_command_model.md
rule R180), and the encoder `frame_encoder` computes (40_frame_encoder.md rules R120 to R126), all pure. -/

namespace Sys2Proof

/-- `sum8` (R14, R124): the sum of the bytes mod 256. -/
def sum8 : List Byte → Byte
  | [] => 0
  | b :: t => b + sum8 t

/-- `pad128` (R14): truncated to 128 bytes, or zero-padded to 128. -/
def pad128 (s : List Byte) : Block := (s ++ zeros blockSize).take blockSize

/-- `be_N(v)` (R14, R61): the N bytes of v, most significant first. -/
def beBytes : Nat → Nat → List Byte
  | 0, _ => []
  | n + 1, v => BitVec.ofNat 8 (v / 256 ^ n) :: beBytes n v

/-! ## The Command Model -/

/-- PLEN (R97, R180). -/
def Kind.plen : Kind → Nat
  | .telemetry => 2
  | .ping => 0
  | .liftExtend => 0
  | .liftRetract => 0
  | .liftBrake => 0
  | .tiltExtend => 0
  | .tiltRetract => 0
  | .tiltBrake => 0

/-- The lookup of R180: none for an identifier outside the closed set ("there is no default row", R101). -/
def Config.lookup (c : Config) (id : Byte) : Option Kind :=
  if id = idPing then some .ping
  else if id = c.idLiftExtend then some .liftExtend
  else if id = c.idLiftRetract then some .liftRetract
  else if id = c.idLiftBrake then some .liftBrake
  else if id = c.idTiltExtend then some .tiltExtend
  else if id = c.idTiltRetract then some .tiltRetract
  else if id = c.idTiltBrake then some .tiltBrake
  else if id = idTelemetry then some .telemetry
  else none

/-- The frame of a kind and the payload read for it (R157). -/
def Kind.instr (payload : List Byte) : Kind → Instr
  | .ping => .ping
  | .liftExtend => .liftExtend
  | .liftRetract => .liftRetract
  | .liftBrake => .liftBrake
  | .tiltExtend => .tiltExtend
  | .tiltRetract => .tiltRetract
  | .tiltBrake => .tiltBrake
  | .telemetry => .telem (payload.getD 0 0) (payload.getD 1 0)

/-- The identifier byte of an instruction (R96, R99). -/
def Instr.id (c : Config) : Instr → Byte
  | .ping => idPing
  | .liftExtend => c.idLiftExtend
  | .liftRetract => c.idLiftRetract
  | .liftBrake => c.idLiftBrake
  | .tiltExtend => c.idTiltExtend
  | .tiltRetract => c.idTiltRetract
  | .tiltBrake => c.idTiltBrake
  | .telem _ _ => idTelemetry
  | .telemNotify _ _ _ => idTelemetry

/-- The payload bytes of an instruction (R94, R97, R99). -/
def Instr.payload : Instr → List Byte
  | .ping => []
  | .liftExtend => []
  | .liftRetract => []
  | .liftBrake => []
  | .tiltExtend => []
  | .tiltRetract => []
  | .tiltBrake => []
  | .telem d1 d2 => [d1, d2]
  | .telemNotify d1 d2 aux => d1 :: d2 :: aux

/-! ## frame_decoder -/

/-- The outcome of one decode step (R151). -/
inductive DecStep where
  /-- No decision is possible yet. -/
  | needMore
  /-- A garbage byte was skipped. -/
  | skipped (b : Byte)
  /-- The byte after a sync byte is no identifier. -/
  | unknownId (id : Byte)
  /-- A whole candidate was read and its checksum does not match. -/
  | badChecksum (id : Byte)
  /-- A valid frame. -/
  | frame (i : Instr)
  deriving DecidableEq, Repr, Inhabited

/-- One decode step, the arms of R158 in their order (R295). -/
def decodeStep (c : Config) : List Byte → DecStep
  | [] => .needMore
  | b :: t =>
    if b ≠ sync then .skipped b
    else match t with
      | [] => .needMore
      | id :: r =>
        match c.lookup id with
        | none => .unknownId id
        | some k =>
          if r.length < k.plen + 1 then .needMore
          else if r.getD k.plen 0 ≠ sum8 (id :: r.take k.plen) then .badChecksum id
          else .frame (k.instr (r.take k.plen))

/-- How many bytes the step takes from the head of `pend` (R151): one byte where it skips or rejects, a whole frame
where it returns one. -/
def DecStep.consumed : DecStep → Nat
  | .needMore => 0
  | .skipped _ => 1
  | .unknownId _ => 1
  | .badChecksum _ => 1
  | .frame i => i.payload.length + frameOverhead

/-- What `run()` leaves: the outcomes of its steps in order, and `pend`. -/
structure DecRun where
  outs : List DecStep
  pend : List Byte
  deriving DecidableEq, Repr, Inhabited

/-- At most `fuel` decode steps, stopping at NeedMoreBytes. -/
def runSteps (c : Config) : Nat → List Byte → DecRun
  | 0, pend => ⟨[], pend⟩
  | fuel + 1, pend =>
    match decodeStep c pend with
    | .needMore => ⟨[], pend⟩
    | o =>
      let r := runSteps c fuel (pend.drop o.consumed)
      ⟨o :: r.outs, r.pend⟩

/-- `run()` (R160): every step removes a byte (R161), so the length of `pend` is fuel enough. -/
def run (c : Config) (pend : List Byte) : DecRun := runSteps c pend.length pend

/-- The frame an outcome returns. -/
def DecStep.frame? : DecStep → Option Instr
  | .frame i => some i
  | .needMore => none
  | .skipped _ => none
  | .unknownId _ => none
  | .badChecksum _ => none

/-- The frames of a run, in order (R160). -/
def DecRun.frames (r : DecRun) : List Instr := r.outs.filterMap DecStep.frame?

/-- `feed` (R159). -/
def feed (pend bs : List Byte) : List Byte := pend ++ bs

/-! ## frame_encoder -/

/-- The bytes of a frame (R90, R93). -/
def frameBytes (id : Byte) (payload : List Byte) : List Byte :=
  sync :: id :: payload ++ [sum8 (id :: payload)]

/-- `encode(id, payload)` (R120, R121): none is the failure E6. It checks neither the id nor PLEN (R103). -/
def encodeFrame (id : Byte) (payload : List Byte) : Option (List Byte) :=
  if payload.length ≤ maxPayload then some (frameBytes id payload) else none

/-- The bytes of an instruction (R138 to R146). -/
def encode (c : Config) (i : Instr) : List Byte := frameBytes (i.id c) i.payload

/-- `pack` (R126): frames back to back, zero-padded to a block; none, the failure E6, if they exceed it. -/
def pack (frames : List (List Byte)) : Option Block :=
  if frames.flatten.length ≤ blockSize then some (pad128 frames.flatten) else none

/-- `BRAKE_BLOCK` (R264): one brake frame per channel, lift first. -/
def brakeBlock (c : Config) : Block := pad128 (encode c .liftBrake ++ encode c .tiltBrake)

/-! ## The notification form, and the table's words -/

/-- Reads the notification form (R99), as its only receiver, the host, does: `frame_decoder` never sees it. -/
def decodeNotify (c : Config) : List Byte → Option Instr
  | s :: id :: d1 :: d2 :: r =>
    if s = sync ∧ id = idTelemetry ∧ c.auxLen < r.length
        ∧ r.getD c.auxLen 0 = sum8 (id :: d1 :: d2 :: r.take c.auxLen)
    then some (.telemNotify d1 d2 (r.take c.auxLen)) else none
  | _ => none

/-- The bytes on the wire of a table word: the table writes the first byte on the wire as the most significant byte
(R104; notes/assumptions/13.md); zero bytes follow, up to `total`. -/
def tableBytes (nbits w total : Nat) : List Byte :=
  let bs := beBytes (nbits / 8) w
  bs ++ zeros (total - bs.length)

/-- The longest form `frame_decoder` reads has 5 bytes; a longer row can only be the notification form. -/
def isNotifyWidth (nbits : Nat) : Bool := decide (8 * maxDeclFrame < nbits)

/-- The instruction that the bytes of a table word hold, under a configuration. -/
def decodeTableWordWith (c : Config) (nbits w : Nat) : Option Instr :=
  if isNotifyWidth nbits then decodeNotify c (tableBytes nbits w (c.auxLen + 5))
  else (decodeStep c (tableBytes nbits w maxDeclFrame)).frame?

/-- The instruction of a table word under the configuration State.reset holds. -/
def decodeTableWord (nbits w : Nat) : Option Instr := decodeTableWordWith Config.refcfg nbits w

end Sys2Proof
end

