-- ==== Sys2Proof/Machine/State.lean ====
section
/-! DEFINITION. The state of OmniTiles CORE (10_state.md), its reset values (70_reset_and_hazards.md rule R320), its outputs,
and the reasons a step can stop. -/

namespace Sys2Proof.Machine

/-! ## Control states -/

/-- Serializer state `e_st` (R25). -/
inductive ESt where
  | idle
  | sync
  | id
  | payload
  | cks
  deriving DecidableEq, Repr, Inhabited

/-- Producer cycle state `p_st` (R33). -/
inductive PSt where
  | wait
  | prepared
  | ready
  | post
  deriving DecidableEq, Repr, Inhabited

/-- Consumer loop state `c_st` (R38). -/
inductive CSt where
  | poll
  | decode
  deriving DecidableEq, Repr, Inhabited

/-- `link` (R29). -/
inductive Link where
  | disconnected
  | connected
  deriving DecidableEq, Repr, Inhabited

/-- Which single-field step of the running event handler comes next (R73, R233, R234). -/
inductive EvtPc where
  /-- No handler is running. -/
  | idle
  /-- `conn` is written, `link` not yet (R233). -/
  | setLink
  /-- The disconnect trigger step is done, `link` not yet written (R234). -/
  | clearLink
  /-- `link` is written, `conn` not yet (R234). -/
  | clearConn
  deriving DecidableEq, Repr, Inhabited

/-- The three fields the gate reads, one at a time and in this order (R241, R73). -/
inductive GateField where
  /-- `link` -/
  | link
  /-- `last_send` -/
  | interval
  /-- `backoff_deadline` -/
  | backoff
  deriving DecidableEq, Repr, Inhabited

/-- Which single-field step of the running main-loop rule comes next, with the values it has read (R203, R262, R241, R242). -/
inductive BmlPc where
  /-- Between rules: `p_st` says what comes next. -/
  | idle
  /-- `b_tx` is prepared, `disc_trig` not yet consumed. -/
  | takeDisc
  /-- `t_d` is read, `ovf_trig` not yet consumed. -/
  | takeOvf (tD : Bool)
  /-- Both triggers are consumed, the override not yet done. -/
  | override (tD tO : Bool)
  /-- The block is final, `p_st` not yet P_PREPARED. -/
  | prepDone
  /-- The notification is built (R239), and `f` is the next field its gate reads (R241). -/
  | gate (f : GateField) (d1 d2 : Byte) (aux : List Byte)
  /-- The gate of R241 has passed: this notification is in flight to the radio (R242). -/
  | send (d1 d2 : Byte) (aux : List Byte)
  /-- The outbound path is done, the cycle's end (R208) not yet. -/
  | finish
  deriving DecidableEq, Repr, Inhabited

/-! ## Outputs -/

/-- What `raise` reports (R281 to R290, R292). -/
inductive Err where
  /-- E1 -/
  | badSync (b : Byte)
  /-- E2 -/
  | unknownId (id : Byte)
  /-- E3 -/
  | lengthMismatch (n : Nat)
  /-- E4 -/
  | checksumMismatch (id : Byte)
  /-- E5 -/
  | telemetryChecksumMismatch (c : Byte)
  /-- E6 -/
  | payloadTooLong (n : Nat)
  /-- E7 -/
  | queueFull
  /-- E8 -/
  | sendFailed
  /-- E9 -/
  | peerDisconnect
  /-- E10 -/
  | exchangeFailed
  deriving DecidableEq, Repr, Inhabited

/-- Output events (R15 `emit`), and what the byte-serial forms put on their ports (R128, R170). -/
inductive Output where
  /-- `ping()` (R183). -/
  | ping
  /-- `act[ch](cmd, param)` (R184 to R189, R191). -/
  | act (ch : Channel) (cmd : Cmd) (param : Nat)
  /-- `log(TelemetryIgnored(D1, D2))` (R190). -/
  | telemetryIgnored (d1 d2 : Byte)
  /-- `radio_send(h, note)` with its result, true for ok (R242, R249). -/
  | radioSend (h : Handle) (note : List Byte) (ok : Bool)
  /-- `notify(note)` (R242). -/
  | notify (note : List Byte)
  /-- `log(E, info)` on one device (R280, R291, R292). -/
  | log (d : Device) (e : Err)
  /-- A byte taken at an encoder's output, with `o_last` (R130). -/
  | encByte (e : EncSel) (data : Byte) (last : Bool)
  /-- The pulse `err_too_long` of an encoder (R131). -/
  | encTooLong (e : EncSel)
  /-- The pulse `f_valid` of a byte-serial decoder, with `f_id` and, for Telemetry, `f_payload` (R170). -/
  | decFrame (d : DecSel) (id : Byte) (payload : Option (BitVec 16))
  /-- The pulse `err_valid` of a byte-serial decoder, with `err_code` (R170). -/
  | decErr (d : DecSel) (code : BitVec 4)
  deriving DecidableEq, Repr, Inhabited

/-! ## State -/

/-- The registers of one `frame_encoder` (R25). -/
structure EncRegs where
  /-- `e_st` -/
  st : ESt
  /-- `e_id` -/
  id : Byte
  /-- `e_len`, 0..125 -/
  len : Nat
  /-- `e_cnt`, 0..125 -/
  cnt : Nat
  /-- `e_acc` -/
  acc : Byte
  deriving DecidableEq, Repr, Inhabited

/-- The bridge device (R26 to R36), its encoder, and the control of its two contexts. -/
structure Bridge where
  /-- `Q`, oldest entry first (R26). -/
  q : List Block
  /-- `ovf_trig` (R27). -/
  ovfTrig : Bool
  /-- `disc_trig` (R28). -/
  discTrig : Bool
  /-- `link` (R29). -/
  link : Link
  /-- `conn` (R30). -/
  conn : Option Handle
  /-- `last_send` (R31). -/
  lastSend : Option Nat
  /-- `backoff_deadline` (R32). -/
  backoffDeadline : Option Nat
  /-- `p_st` (R33). -/
  pSt : PSt
  /-- `b_tx` (R34). -/
  bTx : Block
  /-- `b_rx` (R34). -/
  bRx : Block
  /-- `ready` (R35). -/
  ready : Bool
  /-- `wait_t0` (R36). -/
  waitT0 : Nat
  /-- `xfer_t0` (R36). -/
  xferT0 : Nat
  /-- `xfer_ok` (R36). -/
  xferOk : Bool
  /-- `enc_b` (R25). -/
  enc : EncRegs
  /-- Events that have arrived and are not yet begun, oldest first (R293). -/
  evtQ : List Event
  /-- The control of `EVT`. -/
  evtPc : EvtPc
  /-- The control of `BML` inside one rule. -/
  bmlPc : BmlPc
  deriving DecidableEq, Repr, Inhabited

/-- The main controller (R37 to R41), its encoder, and the control of its loop. -/
structure Controller where
  /-- `c_tx` (R37). -/
  cTx : Block
  /-- `c_rx` (R37). -/
  cRx : Block
  /-- `c_st` (R38). -/
  cSt : CSt
  /-- `rdy_meta` (R39). -/
  rdyMeta : Bool
  /-- `rdy_sync` (R39). -/
  rdySync : Bool
  /-- `dec_blk.pend` (R40). -/
  decBlk : List Byte
  /-- `dec_uart.pend` (R40). -/
  decUart : List Byte
  /-- `act_last[0]` (R41). -/
  actLift : Option Cmd
  /-- `act_last[1]` (R41). -/
  actTilt : Option Cmd
  /-- `enc_c` (R25). -/
  enc : EncRegs
  /-- `CML` has composed `c_tx` for the next exchange (R206, R211). -/
  composed : Bool
  /-- Frames in flight between a decoder and dispatch, oldest first (R21, R160, R182). -/
  inflight : List Instr
  /-- `d_buf[0..d_n]` of the byte-serial form of dec_blk (R170). -/
  serBlk : List Byte
  /-- `d_buf[0..d_n]` of the byte-serial form of dec_uart (R170). -/
  serUart : List Byte
  deriving DecidableEq, Repr, Inhabited

/-- The environment's inputs, held as plain data (R15, R16, R20: not state of the hardware). -/
structure Env where
  /-- `now` of the bridge (R16, R307). -/
  now : Nat
  /-- `now` of the main controller (R16, R307). -/
  nowC : Nat
  /-- The draws of the current step. -/
  pins : Pins
  /-- Stimuli supplied from outside, next first. -/
  inputs : List Stim
  /-- How many free stimuli have been taken. -/
  draws : Nat
  deriving DecidableEq, Repr, Inhabited

/-- The machine: its configuration (constant, R45), its two devices (R20), its inputs and its output trace. -/
structure State where
  cfg : Config
  br : Bridge
  ct : Controller
  env : Env
  trace : List Output
  deriving DecidableEq, Repr, Inhabited

/-! ## Why a step can stop -/

/-- The faults 93_implementation_defined.md asks of a model. No state that meets `State.Inv` raises one. -/
inductive Fault where
  /-- U4: `b_tx` written in P_PREPARED or P_READY (R80). Raised by `writeBTx`. SAFE: the spec gives the write no outcome. -/
  | txBufferWrittenInFlight
  /-- U3: a transfer in P_READY with `ready` = 0 (R206, R210). Raised by `exchangeStep`. SAFE: the spec gives no outcome. -/
  | exchangeWithoutReady
  deriving DecidableEq, Repr, Inhabited

/-- What a step refuses. -/
inductive Refusal where
  /-- An instruction without a meaning; raised by a refused arm of `exec` only (there is none). SAFE. -/
  | notModelled (mnemonic : String)
  /-- U5: two Command Kinds share an identifier (R98). Raised by `step`. SAFE: the spec refuses the configuration. -/
  | ambiguousIdentifiers
  /-- A parameter outside its constraint in R10 (R323). Raised by `step`. SAFE: the rules do not hold before it is met. -/
  | configurationOutOfRange
  deriving DecidableEq, Repr, Inhabited

/-! ## Reset -/

/-- Encoder registers after reset (R25, R320). -/
def EncRegs.reset : EncRegs := ⟨.idle, 0, 0, 0, 0⟩

/-- The bridge after a reset at time `t` (R320). -/
def Bridge.resetAt (t : Nat) : Bridge where
  q := []
  ovfTrig := false
  discTrig := false
  link := .disconnected
  conn := none
  lastSend := none
  backoffDeadline := none
  pSt := .wait
  bTx := zeros blockSize
  bRx := zeros blockSize
  ready := false
  waitT0 := t
  xferT0 := t
  xferOk := false
  enc := .reset
  evtQ := []
  evtPc := .idle
  bmlPc := .idle

/-- The controller after a reset (R320). -/
def Controller.reset : Controller where
  cTx := zeros blockSize
  cRx := zeros blockSize
  cSt := .poll
  rdyMeta := false
  rdySync := false
  decBlk := []
  decUart := []
  actLift := none
  actTilt := none
  enc := .reset
  composed := false
  inflight := []
  serBlk := []
  serUart := []

/-- The machine after a reset of both devices, when their times are `t` and `tC`, under a configuration. -/
def State.resetAt (c : Config) (t tC : Nat) : State where
  cfg := c
  br := .resetAt t
  ct := .reset
  env := ⟨t, tC, .quiet, [], 0⟩
  trace := []

/-- The machine after reset. DESIGN CHOICE (notes/assumptions/1.md, 3.md): REFCFG, at times 0. -/
def State.reset : State := .resetAt .refcfg 0 0

end Sys2Proof.Machine
end

