-- ==== Sys2Proof/Machine/Ops.lean ====
section
/-! DEFINITION. The operations shared by the meanings and the agents: output, the raising of an error, the queue,
the buffers, and fail-safe entry. -/

namespace Sys2Proof.Machine

abbrev Result := Host.Outcome State Fault Refusal

/-- Go on from a next state; a stop stays a stop. -/
def andThen (o : Result) (f : State → Result) : Result :=
  match o with
  | .next s => f s
  | .fault r => .fault r
  | .refused r => .refused r

/-- `emit` (R15): output events are appended to the trace. -/
def State.emits (s : State) (os : List Output) : State := { s with trace := s.trace ++ os }

/-- `emit` of one event (R15). -/
def State.emit (s : State) (o : Output) : State := s.emits [o]

/-- `raise E(info)` on a device (R280, R292): one log event; the machine goes on. This is the one operation that reports an
error. -/
def State.raise (s : State) (d : Device) (e : Err) : State := s.emit (.log d e)

/-! ## The inbound queue (R26, R72, R79) -/

/-- Append `pad128(p)` at the tail (R230, R231). -/
def State.enqueue (s : State) (p : List Byte) : State :=
  { s with br := { s.br with q := s.br.q ++ [pad128 p] } }

/-! ## The transmit buffer -/

/-- A write of `b_tx`. In P_PREPARED and P_READY it is the violation of R80 and U4. -/
def writeBTx (b : Block) (s : State) : Result :=
  if s.br.pSt = .prepared ∨ s.br.pSt = .ready then .fault .txBufferWrittenInFlight
  else .next { s with br := { s.br with bTx := b } }

/-- The oldest entry, or an all-zero block if there is none, goes to `b_tx` (R203). -/
def loadBTx (s : State) : Result :=
  match s.br.q with
  | [] => writeBTx (zeros blockSize) s
  | e :: rest => andThen (writeBTx e s) fun s => .next { s with br := { s.br with q := rest } }

/-- FAIL-SAFE ENTRY (R298, R263), this hardware's one exception: nothing is saved, `b_tx` becomes BRAKE_BLOCK,
and the cycle goes on. The triggers were cleared when they were read (R262). There is no return (R299). -/
def failSafeEntry (s : State) : Result := writeBTx (brakeBlock s.cfg) s

/-! ## Actuators -/

/-- `act_last[ch]` (R41). -/
def Controller.actLast (c : Controller) : Channel → Option Cmd
  | .lift => c.actLift
  | .tilt => c.actTilt

/-- `act_last[ch] <- Some(cmd)`. -/
def Controller.setActLast (c : Controller) (cmd : Cmd) : Channel → Controller
  | .lift => { c with actLift := some cmd }
  | .tilt => { c with actTilt := some cmd }

/-- `ACT_PARAM[ch][cmd]` (R191). -/
def ActParam.get (p : ActParam) : Channel → Cmd → Nat
  | .lift, .extend => p.liftExtend
  | .lift, .retract => p.liftRetract
  | .lift, .brake => p.liftBrake
  | .tilt, .extend => p.tiltExtend
  | .tilt, .retract => p.tiltRetract
  | .tilt, .brake => p.tiltBrake

/-- `emit act[ch](cmd, ACT_PARAM[ch][cmd]); act_last[ch] <- Some(cmd)` (R184 to R189). -/
def actuate (ch : Channel) (cmd : Cmd) (s : State) : State :=
  { s.emit (.act ch cmd (ActParam.get s.cfg.actParam ch cmd)) with ct := s.ct.setActLast cmd ch }

end Sys2Proof.Machine
end

