-- ==== Sys2Proof/Machine/Operands.lean ====
section
/-! DEFINITION. The operands that the hardware assembles itself: auxiliary readings, telemetry bytes of a received block,
and the codes the ports carry. -/

namespace Sys2Proof.Machine

/-- `aux_bytes` (R100, R240): each reading big-endian in its width. A reading the draw does not supply is 0, and a value
too large for its width keeps its low bytes (notes/assumptions/17.md). -/
def auxBytes : List Nat → List Nat → List Byte
  | [], _ => []
  | w :: ws, as => beBytes w (as.headD 0) ++ auxBytes ws as.tail

/-- `recognized` (R236): a fixed test of offsets 0 and 1. -/
def recognized (b : Block) : Bool := decide (b.getD 0 0 = sync) && decide (b.getD 1 0 = idTelemetry)

/-- `cks_ok` (R238): `b_rx[4] = sum8(b_rx[1..4])`. -/
def telemetryChecksumOk (b : Block) : Bool :=
  decide (b.getD 4 0 = sum8 [b.getD 1 0, b.getD 2 0, b.getD 3 0])

/-- `act_cmd` (R193): 3 is unused. -/
def cmdCode : Cmd → BitVec 2
  | .extend => 0
  | .retract => 1
  | .brake => 2

/-- The 4-bit value of an error (R292). -/
def errCode : Err → BitVec 4
  | .badSync _ => 1
  | .unknownId _ => 2
  | .lengthMismatch _ => 3
  | .checksumMismatch _ => 4
  | .telemetryChecksumMismatch _ => 5
  | .payloadTooLong _ => 6
  | .queueFull => 7
  | .sendFailed => 8
  | .peerDisconnect => 9
  | .exchangeFailed => 10

/-- The error a decode step raises (R152, R154, R156): none where it waits or returns a frame (R157). -/
def stepErr? : DecStep → Option Err
  | .needMore => none
  | .skipped b => some (.badSync b)
  | .unknownId id => some (.unknownId id)
  | .badChecksum id => some (.checksumMismatch id)
  | .frame _ => none

/-- The log events of a run, in order: the decoders are the controller's (R169, R292).
DESIGN CHOICE (notes/assumptions/24.md): the E1 of a skipped 0x00 is logged too, though R212 allows a builder to suppress it. -/
def runLog (outs : List DecStep) : List Output := (outs.filterMap stepErr?).map (.log .controller)

/-- The channel and the command of an actuator frame (R184 to R189). -/
def commandOf : Instr → Option (Channel × Cmd)
  | .liftExtend => some (.lift, .extend)
  | .liftRetract => some (.lift, .retract)
  | .liftBrake => some (.lift, .brake)
  | .tiltExtend => some (.tilt, .extend)
  | .tiltRetract => some (.tilt, .retract)
  | .tiltBrake => some (.tilt, .brake)
  | .ping => none
  | .telem _ _ => none
  | .telemNotify _ _ _ => none

/-! ## Ports (R193, R249; notes/assumptions/21.md)

A port that carries data has no value here (`none`) where its valid or request is low: the spec gives it none. -/

/-- The dispatch ports of one channel, lift being channel 0 and tilt channel 1 (R193, R8): `act_valid[ch]`, and `act_cmd[ch]`
where the pulse carries a command. -/
structure ChannelPorts where
  actValid : Bool
  actCmd : Option (BitVec 2)
  deriving DecidableEq, Repr, Inhabited

/-- The dispatch ports in the cycle of one output event, in the controller clock domain (R193). `log_code` is the error's
4-bit value; the spec gives TelemetryIgnored none. -/
structure DispatchPorts where
  pingEvt : Bool
  lift : ChannelPorts
  tilt : ChannelPorts
  logValid : Bool
  logCode : Option (BitVec 4)
  deriving DecidableEq, Repr, Inhabited

/-- No pulse. -/
def DispatchPorts.quiet : DispatchPorts := ⟨false, ⟨false, none⟩, ⟨false, none⟩, false, none⟩

/-- The ports of channel `ch` (R193). -/
def DispatchPorts.channel (p : DispatchPorts) : Channel → ChannelPorts
  | .lift => p.lift
  | .tilt => p.tilt

/-- The pulses of an output event on the controller's dispatch ports (R193). What the bridge puts out or logs has none. -/
def dispatchPorts : Output → DispatchPorts
  | .ping => { DispatchPorts.quiet with pingEvt := true }
  | .act .lift cmd _ => { DispatchPorts.quiet with lift := ⟨true, some (cmdCode cmd)⟩ }
  | .act .tilt cmd _ => { DispatchPorts.quiet with tilt := ⟨true, some (cmdCode cmd)⟩ }
  | .telemetryIgnored _ _ => { DispatchPorts.quiet with logValid := true }
  | .log .controller e => { DispatchPorts.quiet with logValid := true, logCode := some (errCode e) }
  | .log .bridge _ => .quiet
  | .radioSend _ _ _ => .quiet
  | .notify _ => .quiet
  | .encByte _ _ _ => .quiet
  | .encTooLong _ => .quiet
  | .decFrame _ _ _ => .quiet
  | .decErr _ _ => .quiet

/-- The bridge's event input ports when an event arrives (R249). -/
structure EventPorts where
  rxValid : Bool
  /-- `rx_len[7:0]`, saturated at 128 -/
  rxLen : Option (BitVec 8)
  rxData : Option (List Byte)
  connEvt : Bool
  connHandle : Option Handle
  discEvt : Bool
  deriving DecidableEq, Repr, Inhabited

/-- How an event stands on the bridge's input ports (R249): bytes beyond the 128th are not presented. -/
def eventPorts : Event → EventPorts
  | .wirelessRx p => ⟨true, some (BitVec.ofNat 8 (min p.length blockSize)), some (p.take blockSize), false, none, false⟩
  | .connect h => ⟨false, none, none, true, some h, false⟩
  | .disconnect => ⟨false, none, none, false, none, true⟩

/-- The bridge's `radio_send` ports (R249): the request with its length and bytes, and the result. -/
structure TxPorts where
  txReq : Bool
  /-- The handle `h` of `radio_send(h, note)` (R242). DESIGN CHOICE (notes/assumptions/21.md): R249 lists no port for it. -/
  txHandle : Option Handle
  txLen : Option (BitVec 8)
  txData : Option (List Byte)
  txDone : Bool
  txOk : Option Bool
  deriving DecidableEq, Repr, Inhabited

/-- No request. -/
def TxPorts.quiet : TxPorts := ⟨false, none, none, none, false, none⟩

/-- The pulses of an output event on the bridge's `radio_send` ports (R249): request and result are one step (R242). -/
def txPorts : Output → TxPorts
  | .radioSend h note ok => ⟨true, some h, some (BitVec.ofNat 8 note.length), some note, true, some ok⟩
  | .ping => .quiet
  | .act _ _ _ => .quiet
  | .telemetryIgnored _ _ => .quiet
  | .notify _ => .quiet
  | .log _ _ => .quiet
  | .encByte _ _ _ => .quiet
  | .encTooLong _ => .quiet
  | .decFrame _ _ _ => .quiet
  | .decErr _ _ => .quiet

/-- An output of the bridge towards the radio: an attempted send or its notification (R242). -/
def Output.isSend (o : Output) : Bool :=
  match o with
  | .radioSend _ _ _ => true
  | .notify _ => true
  | .ping => false
  | .act _ _ _ => false
  | .telemetryIgnored _ _ => false
  | .log _ _ => false
  | .encByte _ _ _ => false
  | .encTooLong _ => false
  | .decFrame _ _ _ => false
  | .decErr _ _ => false

end Sys2Proof.Machine
end

