-- ==== Sys2Proof/Machine/Flags.lean ====
section
/-! DEFINITION. The one-bit state and the timed conditions: triggers (R71, R262), the gate (R241), the two timeouts (R307),
and the ready line's synchroniser (R39). -/

namespace Sys2Proof.Machine

/-- `xchg(disc_trig, 0)` (R71): the old value, and the state with the flag clear. -/
def xchgDisc (s : State) : Bool × State :=
  (s.br.discTrig, { s with br := { s.br with discTrig := false } })

/-- `xchg(ovf_trig, 0)` (R71). -/
def xchgOvf (s : State) : Bool × State :=
  (s.br.ovfTrig, { s with br := { s.br with ovfTrig := false } })

/-- The queue wait has timed out (R203, R307). -/
def waitExpired (s : State) : Bool := decide (s.cfg.queueWaitTimeout ≤ s.env.now - s.br.waitT0)

/-- The wait-and-prepare rule is enabled (R203). -/
def prepareEnabled (s : State) : Bool := !s.br.q.isEmpty || waitExpired s

/-- The exchange has timed out (R207, R307). -/
def xferExpired (s : State) : Bool := decide (s.cfg.xferTimeout ≤ s.env.now - s.br.xferT0)

/-- `now - t` as a counter of TIME_W bits computes it (R337): the modular difference of the two stored values. While the
interval fits the counter it is the difference the model uses (`counterElapsed_eq`). -/
def counterElapsed (c : Config) (now t : Nat) : Nat :=
  (now % 2 ^ c.timeW + 2 ^ c.timeW - t % 2 ^ c.timeW) % 2 ^ c.timeW

/-- The second conjunct of R241. -/
def intervalOk (s : State) : Bool :=
  match s.br.lastSend with
  | none => true
  | some t => decide (s.cfg.minSendInterval ≤ s.env.now - t)

/-- The third conjunct of R241. -/
def backoffOver (s : State) : Bool :=
  match s.br.backoffDeadline with
  | none => true
  | some t => decide (t ≤ s.env.now)

/-- One conjunct of the gate, by the field it reads (R241). -/
def gateReads (f : GateField) (s : State) : Bool :=
  match f with
  | .link => decide (s.br.link = .connected)
  | .interval => intervalOk s
  | .backoff => backoffOver s

/-- `may_send` (R241): the gate's answer where nothing comes between its three reads. -/
def maySend (s : State) : Bool := decide (s.br.link = .connected) && intervalOk s && backoffOver s

/-- One edge of the consumer's clock: `rdy_sync <- rdy_meta; rdy_meta <- ready` (R39). -/
def syncEdge (s : State) : State :=
  { s with ct := { s.ct with rdySync := s.ct.rdyMeta, rdyMeta := s.br.ready } }

/-- Several edges. -/
def syncEdges : Nat → State → State
  | 0, s => s
  | n + 1, s => syncEdges n (syncEdge s)

/-- The draws of an agent step are latched: the two times advance (R16) and the consumer's clock ticks (R210). -/
def latch (p : Pins) (s : State) : State :=
  syncEdges p.clkC { s with env := { s.env with now := s.env.now + p.dt, nowC := s.env.nowC + p.dtC, pins := p } }

/-- The consumer observes the ready line asserted (R211): its synchroniser's output, which can only lag the true level,
and the true level itself (R210; notes/assumptions/6.md). -/
def readyObserved (s : State) : Bool := s.ct.rdySync && s.br.ready

end Sys2Proof.Machine
end

