-- ==== Sys2Proof/Machine/Actuator.lean ====
section
/-! DEFINITION. The family of the six actuator commands (42_command_model.md rules R184 to R189). -/

namespace Sys2Proof.Machine

/-- LIFT.EXTEND (R184). -/
def execLiftExtend (s : State) : Result := .next (actuate .lift .extend s)

/-- LIFT.RETRACT (R185). -/
def execLiftRetract (s : State) : Result := .next (actuate .lift .retract s)

/-- LIFT.BRAKE (R186). -/
def execLiftBrake (s : State) : Result := .next (actuate .lift .brake s)

/-- TILT.EXTEND (R187). -/
def execTiltExtend (s : State) : Result := .next (actuate .tilt .extend s)

/-- TILT.RETRACT (R188). -/
def execTiltRetract (s : State) : Result := .next (actuate .tilt .retract s)

/-- TILT.BRAKE (R189). -/
def execTiltBrake (s : State) : Result := .next (actuate .tilt .brake s)

end Sys2Proof.Machine
end

