-- ==== Sys2Proof/Machine/Command.lean ====
section
/-! DEFINITION. The family of the two kinds without an actuator: PING (R183) and TELEM at the controller (R190). -/

namespace Sys2Proof.Machine

/-- PING: `emit ping()`; no state is written (R183). -/
def execPing (s : State) : Result := .next (s.emit .ping)

/-- TELEM D1, D2 at the controller: logged, no other effect (R190). -/
def execTelem (d1 d2 : Byte) (s : State) : Result := .next (s.emit (.telemetryIgnored d1 d2))

end Sys2Proof.Machine
end

