-- ==== Sys2Proof/Machine/Notify.lean ====
section
/-! DEFINITION. The output-only form TELEM.NOTIFY: one notification sent by the bridge (44_bridge_relay.md rules R239,
R242 to R244). The gate of R241 stands before it, in the outbound path (notes/assumptions/12.md). -/

namespace Sys2Proof.Machine

/-- `r` of R242: fail if the handle is gone, else the drawn result of `radio_send`. -/
def sendSucceeds (s : State) : Bool := s.br.conn.isSome && s.env.pins.sendOk

/-- The attempt on the radio's ports: none where the handle is gone (R242, R249). -/
def sendRequest (note : List Byte) (s : State) : List Output :=
  match s.br.conn with
  | none => []
  | some h => [.radioSend h note s.env.pins.sendOk]

/-- The attempt and `last_send <- Some(now)`, then the success arm (R242, R244) or the failure arm (R243). -/
def radioSend (note : List Byte) (s : State) : State :=
  let s := { s.emits (sendRequest note s) with br := { s.br with lastSend := some s.env.now } }
  if sendSucceeds s then
    { s.emit (.notify note) with br := { s.br with backoffDeadline := none } }
  else
    { s with br := { s.br with backoffDeadline := some (s.env.now + s.cfg.backoffWindow) } }.raise .bridge .sendFailed

/-- TELEM.NOTIFY D1, D2; aux: encode it (R146, R239) and send it. A payload over 125 bytes, which AUX_LEN <= 123 rules
out, is the encoder's failure E6 and sends nothing (R121). -/
def execTelemNotify (d1 d2 : Byte) (aux : List Byte) (s : State) : Result :=
  match encodeFrame idTelemetry (d1 :: d2 :: aux) with
  | none => .next (s.raise .bridge (.payloadTooLong (aux.length + 2)))
  | some note => .next (radioSend note s)

end Sys2Proof.Machine
end

