-- ==== Sys2Proof/Machine/Dispatch.lean ====
section
/-! DEFINITION. Every instruction and its meaning, one arm each. -/

namespace Sys2Proof.Machine

/-- The effect of one frame: dispatch on the controller (R182), or, for the notification form, sending by the bridge. -/
def exec (i : Instr) (s : State) : Host.Outcome State Fault Refusal :=
  match i with
  | .ping => Sys2Proof.Machine.execPing s
  | .liftExtend => Sys2Proof.Machine.execLiftExtend s
  | .liftRetract => Sys2Proof.Machine.execLiftRetract s
  | .liftBrake => Sys2Proof.Machine.execLiftBrake s
  | .tiltExtend => Sys2Proof.Machine.execTiltExtend s
  | .tiltRetract => Sys2Proof.Machine.execTiltRetract s
  | .tiltBrake => Sys2Proof.Machine.execTiltBrake s
  | .telem d1 d2 => Sys2Proof.Machine.execTelem d1 d2 s
  | .telemNotify d1 d2 aux => Sys2Proof.Machine.execTelemNotify d1 d2 aux s

end Sys2Proof.Machine
end

