-- ==== Sys2Proof/Machine/Transport.lean ====
section
/-! DEFINITION. The wired hop's joint steps (43_transport_link.md): the exchange (R206), its failure (R207), and the
controller's composition of its own block (R211). -/

namespace Sys2Proof.Machine

/-- The completed exchange (R206): the swap, and the deassertion. -/
def completeExchange (s : State) : State :=
  { s with
    br := { s.br with bRx := s.ct.cTx, xferOk := true, ready := false, pSt := .post }
    ct := { s.ct with cRx := s.br.bTx, cSt := .decode, composed := false } }

/-- The failed exchange (R207, R290). What the receive buffers then hold is drawn (U7); a block in `c_rx` that still waits
to be decoded, after an exchange the consumer never came to, is not touched (notes/assumptions/7.md). The bridge logs E10. -/
def failExchange (s : State) : State :=
  { s with
    br := { s.br with ready := false, xferOk := false, pSt := .post, bRx := pad128 s.env.pins.bRxFail }
    ct := { s.ct with
      composed := false
      cRx := if s.ct.cSt = CSt.poll then pad128 s.env.pins.cRxFail else s.ct.cRx } }.raise .bridge .exchangeFailed

/-- A drawn failure (R206): the consumer had initiated the exchange, so it logs E10 too (R292). -/
def failInitiated (s : State) : State := (failExchange s).raise .controller .exchangeFailed

/-- The guard of R206. -/
def exchangeEnabled (s : State) : Bool :=
  decide (s.br.pSt = PSt.ready) && decide (s.ct.cSt = CSt.poll) && s.ct.inflight.isEmpty && s.ct.composed

/-- The exchange step (R206), its outcome drawn. A transfer while `ready` is 0 is the violation of U3. -/
def exchangeStep (s : State) : Result :=
  if exchangeEnabled s then
    if s.br.ready then
      .next (if s.env.pins.xferOk then completeExchange s else failInitiated s)
    else .fault .exchangeWithoutReady
  else .next s

/-- The block the consumer sends: its telemetry frame at offset 0, or zeros (R211). -/
def consumerBlock (c : Config) : Option (Byte × Byte) → Option Block
  | none => some (zeros blockSize)
  | some (d1, d2) => pack [encode c (.telem d1 d2)]

/-- Composing `c_tx`, once per exchange, with ready observed asserted (R211). -/
def composeStep (s : State) : State :=
  if s.ct.cSt = .poll ∧ s.ct.inflight = [] ∧ s.ct.composed = false ∧ readyObserved s = true then
    match consumerBlock s.cfg s.env.pins.telemIn with
    | none => s.raise .controller (.payloadTooLong 5)
    | some b => { s with ct := { s.ct with cTx := b, composed := true } }
  else s

end Sys2Proof.Machine
end

