-- ==== Sys2Proof/Machine/Consumer.lean ====
section
/-! DEFINITION. `CML`, the controller's polling loop: decode and dispatch of the received block (43_transport_link.md rule
R212) and of the UART source (R213), one dispatched frame a step (42_command_model.md rule R182). -/

namespace Sys2Proof.Machine

/-- `c_st <- C_POLL` once every frame in flight is dispatched (R212). -/
def settle (s : State) : State :=
  if s.ct.inflight = [] then { s with ct := { s.ct with cSt := .poll } } else s

/-- Dispatch the oldest frame in flight (R182); with none, the decoding is over. -/
def dispatchNext (s : State) : Result :=
  match s.ct.inflight with
  | [] => .next (settle s)
  | i :: rest => andThen (exec i { s with ct := { s.ct with inflight := rest } }) fun s => .next (settle s)

/-- `flush()` after a block (R163): an incomplete tail is discarded with E3 where DEC_FLUSH_AT_BLOCK_END is true. -/
def flushBlk (s : State) : State :=
  if s.cfg.decFlushAtBlockEnd = true ∧ s.ct.decBlk ≠ [] then
    { s.raise .controller (.lengthMismatch s.ct.decBlk.length) with ct := { s.ct with decBlk := [] } }
  else s

/-- `dec_blk.feed(c_rx); dec_blk.run()`, then the flush (R212): the frames go into flight. -/
def decodeBlk (s : State) : State :=
  let r := run s.cfg (feed s.ct.decBlk s.ct.cRx)
  let s := s.emits (runLog r.outs)
  flushBlk { s with ct := { s.ct with decBlk := r.pend, inflight := r.frames } }

/-- `dec_uart.feed(bs); dec_uart.run()` (R213). -/
def decodeUart (s : State) : State :=
  let r := run s.cfg (feed s.ct.decUart s.env.pins.uartIn)
  let s := s.emits (runLog r.outs)
  { s with ct := { s.ct with decUart := r.pend, inflight := r.frames } }

/-- One step of decode and dispatch: the next frame in flight; with none and a block waiting, decode it and dispatch its
first frame (R212; notes/assumptions/5.md). -/
def cmlStep (s : State) : Result :=
  match s.ct.inflight with
  | _ :: _ => dispatchNext s
  | [] =>
    match s.ct.cSt with
    | .poll => .next s
    | .decode => dispatchNext (decodeBlk s)

/-- The UART poll (R213), in C_POLL and with at least one byte delivered. -/
def uartStep (s : State) : Result :=
  if s.ct.cSt = .poll ∧ s.ct.inflight = [] ∧ s.env.pins.uartIn ≠ [] then dispatchNext (decodeUart s)
  else .next s

end Sys2Proof.Machine
end

