-- ==== Sys2Proof/Machine/DecSerial.lean ====
section
/-! DEFINITION. The byte-serial `frame_decoder` (41_frame_decoder.md rule R170), one clock cycle at a time. Its register
`d_buf[0..d_n]` is a byte list (notes/assumptions/9.md). -/

namespace Sys2Proof.Machine

/-- `in_ready` (R170). -/
def decInReady (c : Config) (buf : List Byte) : Bool := decide (decodeStep c buf = .needMore)

/-- `f_payload` (R170): D1 in bits 15..8, D2 in bits 7..0 for Telemetry; ignored, so absent, for the other kinds. -/
def framePayload : Instr → Option (BitVec 16)
  | .telem d1 d2 => some (d1 ++ d2)
  | .ping => none
  | .liftExtend => none
  | .liftRetract => none
  | .liftBrake => none
  | .tiltExtend => none
  | .tiltRetract => none
  | .tiltBrake => none
  | .telemNotify _ _ _ => none

/-- The pulses of a decode step (R170): one per frame, one per error, each error with its log (for a 0x00 too, a DESIGN CHOICE:
notes/assumptions/24.md). -/
def decPulse (c : Config) (d : DecSel) (o : DecStep) : List Output :=
  match o with
  | .frame i => [.decFrame d (i.id c) (framePayload i)]
  | .needMore => []
  | .skipped b => [.decErr d (errCode (.badSync b)), .log .controller (.badSync b)]
  | .unknownId id => [.decErr d (errCode (.unknownId id)), .log .controller (.unknownId id)]
  | .badChecksum id => [.decErr d (errCode (.checksumMismatch id)), .log .controller (.checksumMismatch id)]

/-- The byte taken at the input in a cycle with `in_ready`. -/
def decAccepted (c : Config) (buf : List Byte) (i : DecIn) : List Byte :=
  if decInReady c buf && i.inValid then [i.inData] else []

/-- The `flush` port in one cycle performs R163: on dec_blk alone, and where DEC_FLUSH_AT_BLOCK_END is true; dec_uart is
never flushed. -/
def flushes (c : Config) (d : DecSel) (i : DecIn) : Bool := i.flush && c.decFlushAtBlockEnd && decide (d = .decBlk)

/-- The buffer at the end of the cycle: a possible step is applied; else a flush empties it (R163) and an offered byte is
appended. -/
def decNext (c : Config) (d : DecSel) (buf : List Byte) (i : DecIn) : List Byte :=
  if decInReady c buf then (if flushes c d i then [] else buf) ++ decAccepted c buf i
  else buf.drop (decodeStep c buf).consumed

/-- What a cycle shows on the trace. -/
def decEvents (c : Config) (d : DecSel) (buf : List Byte) (i : DecIn) : List Output :=
  decPulse c d (decodeStep c buf)
    ++ (if decInReady c buf = true ∧ flushes c d i = true ∧ buf ≠ [] then [.log .controller (.lengthMismatch buf.length)]
        else [])

/-- `d_buf[0..d_n]` of an instance. -/
def Controller.serBuf (k : Controller) : DecSel → List Byte
  | .decBlk => k.serBlk
  | .decUart => k.serUart

/-- A write of an instance's `d_buf`. -/
def Controller.setSerBuf (k : Controller) (buf : List Byte) : DecSel → Controller
  | .decBlk => { k with serBlk := buf }
  | .decUart => { k with serUart := buf }

/-- One clock cycle of a byte-serial decoder. -/
def decCycle (d : DecSel) (i : DecIn) (s : State) : State :=
  { s.emits (decEvents s.cfg d (s.ct.serBuf d) i) with ct := s.ct.setSerBuf (decNext s.cfg d (s.ct.serBuf d) i) d }

/-- Several cycles: the outcomes of the steps applied, the bytes taken at the input, and the buffer reached. -/
def decSerialize (c : Config) (d : DecSel) : List Byte → List DecIn → List DecStep × List Byte × List Byte
  | buf, [] => ([], [], buf)
  | buf, i :: is =>
    let rest := decSerialize c d (decNext c d buf i) is
    ((if decInReady c buf then [] else [decodeStep c buf]) ++ rest.1, decAccepted c buf i ++ rest.2.1, rest.2.2)

end Sys2Proof.Machine
end

