-- ==== Sys2Proof/Machine/EncSerial.lean ====
section
/-! DEFINITION. The byte-serial `frame_encoder` (40_frame_encoder.md rules R128 to R136), one clock cycle at a time. -/

namespace Sys2Proof.Machine

/-- The output ports in one cycle (R128). -/
structure EncOut where
  /-- `o_valid` -/
  oValid : Bool
  /-- `o_data` with `o_last`, where the rules give them: every state but E_IDLE, where R136 gives `o_valid = 0` alone
  (notes/assumptions/8.md) -/
  byte : Option (Byte × Bool)
  pReady : Bool
  busy : Bool
  errTooLong : Bool
  deriving DecidableEq, Repr, Inhabited

/-- The ports in each state (R131 to R136). -/
def encOut (r : EncRegs) (i : EncIn) : EncOut :=
  match r.st with
  | .idle => ⟨false, none, false, false, i.start && decide (maxPayload < i.lenIn.toNat)⟩
  | .sync => ⟨true, some (sync, false), false, true, false⟩
  | .id => ⟨true, some (r.id, false), false, true, false⟩
  | .payload => ⟨i.pValid, some (i.pData, false), i.oReady, true, false⟩
  | .cks => ⟨true, some (r.acc, true), false, true, false⟩

/-- The registers at the end of the cycle (R131 to R135). -/
def encNext (r : EncRegs) (i : EncIn) : EncRegs :=
  match r.st with
  | .idle =>
    if i.start = true ∧ i.lenIn.toNat ≤ maxPayload then ⟨.sync, i.idIn, i.lenIn.toNat, 0, 0⟩ else r
  | .sync => if i.oReady then { r with st := .id } else r
  | .id => if i.oReady then { r with acc := r.id, st := if 0 < r.len then .payload else .cks } else r
  | .payload =>
    if i.pValid && i.oReady then
      { r with acc := r.acc + i.pData, cnt := r.cnt + 1, st := if r.cnt + 1 = r.len then .cks else .payload }
    else r
  | .cks => if i.oReady then { r with st := .idle } else r

/-- The byte taken at the output in this cycle (R128). -/
def encTaken (r : EncRegs) (i : EncIn) : Option (Byte × Bool) :=
  if (encOut r i).oValid && i.oReady then (encOut r i).byte else none

/-- The payload byte taken at the input in this cycle (R128). -/
def encAccepted (r : EncRegs) (i : EncIn) : Option Byte :=
  if (encOut r i).pReady && i.pValid then some i.pData else none

/-- The device of an instance (R25, R127). -/
def encDevice : EncSel → Device
  | .encB => .bridge
  | .encC => .controller

/-- What a cycle shows on the trace: the byte taken, or the refusal of a `start` with its E6 (R131). -/
def encEvents (e : EncSel) (r : EncRegs) (i : EncIn) : List Output :=
  (match encTaken r i with
    | none => []
    | some (b, last) => [.encByte e b last])
  ++ (if (encOut r i).errTooLong then [.encTooLong e, .log (encDevice e) (.payloadTooLong i.lenIn.toNat)] else [])

/-- One clock cycle of `enc_b` or `enc_c`. -/
def encCycle (e : EncSel) (i : EncIn) (s : State) : State :=
  match e with
  | .encB => { s.emits (encEvents .encB s.br.enc i) with br := { s.br with enc := encNext s.br.enc i } }
  | .encC => { s.emits (encEvents .encC s.ct.enc i) with ct := { s.ct with enc := encNext s.ct.enc i } }

/-- Several cycles from a frame in progress, up to the cycle that returns to E_IDLE: the bytes taken at the output, the
payload bytes taken at the input, and the registers reached. -/
def encSerialize : EncRegs → List EncIn → List (Byte × Bool) × List Byte × EncRegs
  | r, [] => ([], [], r)
  | r, i :: is =>
    if r.st = .idle then ([], [], r)
    else
      let rest := encSerialize (encNext r i) is
      ((encTaken r i).toList ++ rest.1, (encAccepted r i).toList ++ rest.2.1, rest.2.2)

end Sys2Proof.Machine
end

