-- ==== Sys2Proof/Machine/Event.lean ====
section
/-! DEFINITION. `EVT`, the bridge's event context (44_bridge_relay.md rules R230 to R234, 45_fail_safe.md rule R261):
one single-field step at a time (R73). -/

namespace Sys2Proof.Machine

/-- `ovf_trig <- 1; raise E7` (R232, R287). -/
def latchOverflow (s : State) : State :=
  { s with br := { s.br with ovfTrig := true } }.raise .bridge .queueFull

/-- The capacity test and the insertion, one step (R231), or the rejection and its trigger, one step (R232). -/
def receivePayload (p : List Byte) (s : State) : State :=
  if s.br.q.length < s.cfg.queueCap then s.enqueue p else latchOverflow s

/-- `if link = Connected then { disc_trig <- 1; raise E9 }` (R261, R289). -/
def latchDisconnect (s : State) : State :=
  if s.br.link = .connected then { s with br := { s.br with discTrig := true } }.raise .bridge .peerDisconnect else s

/-- The first step of an event's handler. -/
def startEvent (e : Event) (s : State) : State :=
  match e with
  | .wirelessRx p => receivePayload p s
  | .connect h => { s with br := { s.br with conn := some h, evtPc := .setLink } }
  | .disconnect => let s := latchDisconnect s; { s with br := { s.br with evtPc := .clearLink } }

/-- One atomic step of `EVT`: the running handler's next step, or the first step of the oldest event that has arrived. -/
def evtStep (s : State) : State :=
  match s.br.evtPc with
  | .idle =>
    match s.br.evtQ with
    | [] => s
    | e :: es => startEvent e { s with br := { s.br with evtQ := es } }
  | .setLink => { s with br := { s.br with link := .connected, evtPc := .idle } }
  | .clearLink => { s with br := { s.br with link := .disconnected, evtPc := .clearConn } }
  | .clearConn => { s with br := { s.br with conn := none, evtPc := .idle } }

end Sys2Proof.Machine
end

