-- ==== Sys2Proof/Machine/Producer.lean ====
section
/-! DEFINITION. `BML`, the bridge's main loop: the producer's cycle (43_transport_link.md rules R202 to R208), trigger
consumption (45_fail_safe.md rules R262, R263) and the outbound path (44_bridge_relay.md rules R235 to R245), one
single-field step at a time (R73). -/

namespace Sys2Proof.Machine

/-- `BML`'s control moves on. -/
def State.goto (s : State) (pc : BmlPc) : State := { s with br := { s.br with bmlPc := pc } }

/-- The end of a cycle (R208): `xfer_ok <- 0; wait_t0 <- now; p_st <- P_WAIT`. -/
def finishCycle (s : State) : State :=
  { s with br := { s.br with xferOk := false, waitT0 := s.env.now, pSt := .wait, bmlPc := .idle } }

/-- `ready <- 1; xfer_t0 <- now; p_st <- P_READY` (R204). -/
def assertReady (s : State) : State :=
  { s with br := { s.br with ready := true, xferT0 := s.env.now, pSt := .ready } }

/-- Log a telemetry checksum that does not match, and go on (R238). -/
def checkTelemetry (s : State) : State :=
  if telemetryChecksumOk s.br.bRx then s else s.raise .bridge (.telemetryChecksumMismatch (s.br.bRx.getD 4 0))

/-- Recognise, check and re-frame (R236 to R240). The notification goes to its gate. -/
def outbound (s : State) : State :=
  if recognized s.br.bRx then
    (checkTelemetry s).goto
      (.gate .link (s.br.bRx.getD 2 0) (s.br.bRx.getD 3 0) (auxBytes s.cfg.auxFields s.env.pins.auxIn))
  else finishCycle s

/-- Where the gate goes on once a field has passed (R241): the next field, or the send (R242). -/
def gateNext (d1 d2 : Byte) (aux : List Byte) : GateField → BmlPc
  | .link => .gate .interval d1 d2 aux
  | .interval => .gate .backoff d1 d2 aux
  | .backoff => .send d1 d2 aux

/-- One read of the gate (R241). Gated out, the notification is discarded (R245). -/
def gateStep (f : GateField) (d1 d2 : Byte) (aux : List Byte) (s : State) : State :=
  if gateReads f s then s.goto (gateNext d1 d2 aux f) else finishCycle s

/-- P_POST (R208): the outbound path only after a completed exchange. -/
def postStep (s : State) : State := if s.br.xferOk then outbound s else finishCycle s

/-- One atomic step of `BML`. -/
def bmlStep (s : State) : Result :=
  match s.br.bmlPc with
  | .idle =>
    match s.br.pSt with
    | .wait => if prepareEnabled s then andThen (loadBTx s) fun s => .next (s.goto .takeDisc) else .next s
    | .prepared => .next (assertReady s)
    | .ready => .next (if xferExpired s then failExchange s else s)
    | .post => .next (postStep s)
  | .takeDisc => let r := xchgDisc s; .next (r.2.goto (.takeOvf r.1))
  | .takeOvf tD => let r := xchgOvf s; .next (r.2.goto (.override tD r.1))
  | .override tD tO =>
    if tD || tO then andThen (failSafeEntry s) fun s => .next (s.goto .prepDone)
    else .next (s.goto .prepDone)
  | .prepDone => .next { s with br := { s.br with pSt := .prepared, bmlPc := .idle } }
  | .gate f d1 d2 aux => .next (gateStep f d1 d2 aux s)
  | .send d1 d2 aux => andThen (exec (.telemNotify d1 d2 aux) s) fun s => .next (s.goto .finish)
  | .finish => .next (finishCycle s)

end Sys2Proof.Machine
end

