-- ==== Sys2Proof/Machine/Schedule.lean ====
section
/-! DEFINITION. What a stimulus does, where the next stimulus comes from, device reset, and how a table word is placed where
the next step fetches it. -/

namespace Sys2Proof.Machine

/-- Reset of the bridge alone (R320, R321, R324): `ready` falls, so a consumer that had composed its block sees the
exchange fail. -/
def resetBridge (s : State) : State :=
  { s with br := .resetAt s.env.now, ct := { s.ct with composed := false } }

/-- Reset of the main controller alone (R320, R321, R324). -/
def resetController (s : State) : State := { s with ct := .reset }

/-- One atomic step of an agent, its draws latched. -/
def runAgent (a : Agent) (s : State) : Result :=
  match a with
  | .evt => .next (evtStep s)
  | .bml => bmlStep s
  | .exchange => exchangeStep s
  | .compose => .next (composeStep s)
  | .cml => cmlStep s
  | .uart => uartStep s

/-- The effect of a stimulus. -/
def perform (x : Stim) (s : State) : Result :=
  match x with
  | .arrive e => .next { s with br := { s.br with evtQ := s.br.evtQ ++ [e] } }
  | .run a p => runAgent a (latch p s)
  | .resetBridge => .next (resetBridge s)
  | .resetController => .next (resetController s)
  | .encClk e i => .next (encCycle e i s)
  | .decClk d i => .next (decCycle d i s)

/-- The next stimulus: the first supplied one, else a free one (notes/assumptions/2.md). -/
def nextStim (s : State) : Stim :=
  match s.env.inputs with
  | x :: _ => x
  | [] => Config.freeStim s.env.draws

/-- The state with the next stimulus taken. -/
def takeStim (s : State) : State :=
  match s.env.inputs with
  | _ :: xs => { s with env := { s.env with inputs := xs } }
  | [] => { s with env := { s.env with draws := s.env.draws + 1 } }

/-- The next stimulus, performed, under a configuration the spec admits (R98, R323). -/
def stepOnce (s : State) : Result :=
  if s.cfg.idsDistinct then
    if s.cfg.inRange then perform (nextStim s) (takeStim s) else .refused .configurationOutOfRange
  else .refused .ambiguousIdentifiers

/-- The state in which the next step is a UART poll that delivers these bytes to an empty decoder. -/
def placeUart (bs : List Byte) (s : State) : State :=
  { s with
    ct := { s.ct with cSt := .poll, inflight := [], decUart := [] }
    env := { s.env with inputs := .run .uart { Pins.quiet with uartIn := bs } :: s.env.inputs } }

/-- The state in which the next step is the bridge's sending of this notification, its gate passed. -/
def placeNotify (d1 d2 : Byte) (aux : List Byte) (s : State) : State :=
  { s with
    br := { s.br with pSt := .post, xferOk := true, ready := false, bmlPc := .send d1 d2 aux }
    ct := { s.ct with composed := false }
    env := { s.env with inputs := .run .bml Pins.quiet :: s.env.inputs } }

/-- A table word placed where the next step fetches it (notes/assumptions/14.md): a notification in the bridge's outbound
path, every other frame at the controller's UART decoder. -/
def placeWord (nbits w : Nat) (s : State) : State :=
  let viaUart := placeUart (tableBytes nbits w maxDeclFrame) s
  if isNotifyWidth nbits then
    match decodeTableWordWith s.cfg nbits w with
    | some (.telemNotify d1 d2 aux) => placeNotify d1 d2 aux s
    | _ => viaUart
  else viaUart

end Sys2Proof.Machine
end

