-- ==== Sys2Proof/Safety.lean ====
section
/-! DEFINITION. What counts as a sound state (10_state.md rule R48 and the control states' consistency), and the helpers the
statements are phrased with. -/

namespace Sys2Proof.Machine

/-- The registers of a serializer are those of a frame in progress (R25, R131 to R135). -/
structure EncRegs.Ok (r : EncRegs) : Prop where
  lenBounded : r.len ≤ maxPayload
  cntBounded : r.cnt ≤ r.len
  cntFresh : r.st = .sync ∨ r.st = .id → r.cnt = 0
  cntPayload : r.st = .payload → r.cnt < r.len

/-- `BML`'s control agrees with `p_st`, and a notification in flight is well-formed. -/
def BmlPc.Fits (c : Config) (p : PSt) : BmlPc → Prop
  | .idle => True
  | .takeDisc => p = .wait
  | .takeOvf _ => p = .wait
  | .override _ _ => p = .wait
  | .prepDone => p = .wait
  | .gate _ _ _ aux => p = .post ∧ aux.length = c.auxLen
  | .send _ _ aux => p = .post ∧ aux.length = c.auxLen
  | .finish => p = .post

/-- The invariant of the state: R48, the quiescence of R161, the timestamps of R307, and the control's consistency. -/
structure State.Inv (s : State) : Prop where
  queueFits : s.br.q.length ≤ s.cfg.queueCap
  entriesWhole : ∀ e ∈ s.br.q, e.length = blockSize
  bTxWhole : s.br.bTx.length = blockSize
  bRxWhole : s.br.bRx.length = blockSize
  cTxWhole : s.ct.cTx.length = blockSize
  cRxWhole : s.ct.cRx.length = blockSize
  readyIff : s.br.ready = true ↔ s.br.pSt = .ready
  linkHasConn : s.br.link = .connected → s.br.conn ≠ none
  blkQuiet : decodeStep s.cfg s.ct.decBlk = .needMore
  uartQuiet : decodeStep s.cfg s.ct.decUart = .needMore
  setLinkHasConn : s.br.evtPc = .setLink → s.br.conn ≠ none
  clearConnDown : s.br.evtPc = .clearConn → s.br.link = .disconnected
  bmlFits : s.br.bmlPc.Fits s.cfg s.br.pSt
  xferOkPost : s.br.xferOk = true → s.br.pSt = .post
  composedReady : s.ct.composed = true → s.br.ready = true ∧ s.ct.cSt = .poll
  inflightDecodable : ∀ i ∈ s.ct.inflight, i.decodable = true
  waitPast : s.br.waitT0 ≤ s.env.now
  xferPast : s.br.xferT0 ≤ s.env.now
  lastSendPast : ∀ t, s.br.lastSend = some t → t ≤ s.env.now
  backoffBounded : ∀ t, s.br.backoffDeadline = some t → t ≤ s.env.now + s.cfg.backoffWindow
  sendUngated : ∀ d1 d2 aux, s.br.bmlPc = .send d1 d2 aux → ∀ t, s.br.backoffDeadline = some t → t ≤ s.env.now
  encBOk : s.br.enc.Ok
  encCOk : s.ct.enc.Ok
  serBlkFits : s.ct.serBlk.length ≤ maxDeclFrame
  serUartFits : s.ct.serUart.length ≤ maxDeclFrame

/-- Both channels were last commanded to brake (R41, R270). -/
def State.Braked (s : State) : Prop := s.ct.actLift = some .brake ∧ s.ct.actTilt = some .brake

/-- Some trigger is latched (R260). -/
def State.Triggered (s : State) : Bool := s.br.discTrig || s.br.ovfTrig

/-- `n` steps of `BML` with no other agent between them. -/
def bmlSteps : Nat → State → Result
  | 0, s => .next s
  | n + 1, s => andThen (bmlStep s) (bmlSteps n)

/-- `n` steps of `EVT` with no other agent between them. -/
def evtSteps : Nat → State → State
  | 0, s => s
  | n + 1, s => evtSteps n (evtStep s)

/-- `n` decode and dispatch steps of `CML` with no other agent between them. -/
def cmlSteps : Nat → State → Result
  | 0, s => .next s
  | n + 1, s => andThen (cmlStep s) (cmlSteps n)

/-- The frame that a step of `CML` dispatches (R182, R212, R213): the oldest in flight, else the first that its source's
decoder finds; none for the other agents. -/
def dispatched (a : Agent) (s : State) : Option Instr :=
  match a with
  | .cml =>
    match s.ct.inflight, s.ct.cSt with
    | i :: _, _ => some i
    | [], .decode => (run s.cfg (feed s.ct.decBlk s.ct.cRx)).frames.head?
    | [], .poll => none
  | .uart =>
    if s.ct.cSt = .poll ∧ s.ct.inflight = [] ∧ s.env.pins.uartIn ≠ [] then
      (run s.cfg (feed s.ct.decUart s.env.pins.uartIn)).frames.head?
    else none
  | .evt => none
  | .bml => none
  | .exchange => none
  | .compose => none

/-- Frames executed one after the other. -/
def execAll : List Instr → State → Result
  | [], s => .next s
  | i :: is, s => andThen (exec i s) (execAll is)

/-- Feed a decoder piece by piece, running it to quiescence after each (R162): all outcomes in order, and `pend`. -/
def runPieces (c : Config) : DecRun → List (List Byte) → DecRun
  | r, [] => r
  | r, p :: ps =>
    let r' := run c (feed r.pend p)
    runPieces c ⟨r.outs ++ r'.outs, r'.pend⟩ ps

end Sys2Proof.Machine
end

