-- ==== Sys2Proof/Certificates/Slice0/Obligations.lean ====
section
/-! DEFINITION. The statements for the provers. Each docstring names the rule of spec/ it formalises, or the model's own
choice it rests on. -/

open Sys2Proof Sys2Proof.Machine

/-! ## Instructions: what each frame does, and what it leaves as it was -/

/-- R138, R183: PING is `A5 50 50`; dispatched, it emits `ping()` and writes no state. -/
def Obligations.PingEmitsOnlyItsEvent : Prop :=
  ∀ s : State, encode s.cfg .ping = [0xA5, 0x50, 0x50] ∧
    exec .ping s = .next { s with trace := s.trace ++ [.ping] }

/-- R184, R185, R186: each lift command is `A5 id id`, invokes `act[0]` with its configured parameter and sets
`act_last[0]`; channel 1 and everything else stay, whatever was commanded before. -/
def Obligations.LiftCommandsDriveChannelZero : Prop :=
  ∀ s : State,
    (encode s.cfg .liftExtend = [0xA5, s.cfg.idLiftExtend, s.cfg.idLiftExtend] ∧
      exec .liftExtend s = .next { s with
        ct := { s.ct with actLift := some .extend }
        trace := s.trace ++ [.act .lift .extend s.cfg.actParam.liftExtend] }) ∧
    (encode s.cfg .liftRetract = [0xA5, s.cfg.idLiftRetract, s.cfg.idLiftRetract] ∧
      exec .liftRetract s = .next { s with
        ct := { s.ct with actLift := some .retract }
        trace := s.trace ++ [.act .lift .retract s.cfg.actParam.liftRetract] }) ∧
    (encode s.cfg .liftBrake = [0xA5, s.cfg.idLiftBrake, s.cfg.idLiftBrake] ∧
      exec .liftBrake s = .next { s with
        ct := { s.ct with actLift := some .brake }
        trace := s.trace ++ [.act .lift .brake s.cfg.actParam.liftBrake] })

/-- R187, R188, R189: the same on channel 1. -/
def Obligations.TiltCommandsDriveChannelOne : Prop :=
  ∀ s : State,
    (encode s.cfg .tiltExtend = [0xA5, s.cfg.idTiltExtend, s.cfg.idTiltExtend] ∧
      exec .tiltExtend s = .next { s with
        ct := { s.ct with actTilt := some .extend }
        trace := s.trace ++ [.act .tilt .extend s.cfg.actParam.tiltExtend] }) ∧
    (encode s.cfg .tiltRetract = [0xA5, s.cfg.idTiltRetract, s.cfg.idTiltRetract] ∧
      exec .tiltRetract s = .next { s with
        ct := { s.ct with actTilt := some .retract }
        trace := s.trace ++ [.act .tilt .retract s.cfg.actParam.tiltRetract] }) ∧
    (encode s.cfg .tiltBrake = [0xA5, s.cfg.idTiltBrake, s.cfg.idTiltBrake] ∧
      exec .tiltBrake s = .next { s with
        ct := { s.ct with actTilt := some .brake }
        trace := s.trace ++ [.act .tilt .brake s.cfg.actParam.tiltBrake] })

/-- R145, R190: TELEM is `A5 60 D1 D2 cks`; the controller's decoder reads it as one frame, whatever its two bytes look
like; dispatched, it is logged and writes no state. -/
def Obligations.TelemetryAtControllerIsOnlyLogged : Prop :=
  ∀ (d1 d2 : Byte) (s : State), encode s.cfg (.telem d1 d2) = [0xA5, 0x60, d1, d2, 0x60 + d1 + d2] ∧
    (s.cfg.idsDistinct = true → run s.cfg [0xA5, 0x60, d1, d2, 0x60 + d1 + d2] = ⟨[.frame (.telem d1 d2)], []⟩) ∧
    exec (.telem d1 d2) s = .next { s with trace := s.trace ++ [.telemetryIgnored d1 d2] }

/-- R146, R242, R243, R244: TELEM.NOTIFY is its frame. Its meaning is the bridge's attempt to send it, after the gate
(notes/assumptions/12.md), and records the time. With a peer's handle and an accepted send the radio is asked to send exactly
that frame, which is put out, and the backoff window is cleared. With the send refused the radio is asked the same, and with the
handle gone it is not asked; then the window opens at `now + BACKOFF_WINDOW`, E8 is raised and nothing is kept for a retry.
Nothing else changes. That the auxiliary bytes are at most 123 is R10's; a longer form, which no caller reaches, sends nothing
and raises E6 (R121, R286; notes/assumptions/12.md). -/
def Obligations.NotifySendsItsFrameOrReportsFailure : Prop :=
  ∀ (d1 d2 : Byte) (aux : List Byte) (s : State),
    let note := [0xA5, 0x60, d1, d2] ++ aux ++ [sum8 ([0x60, d1, d2] ++ aux)]
    let failed (os : List Output) : State := { s with
      br := { s.br with lastSend := some s.env.now, backoffDeadline := some (s.env.now + s.cfg.backoffWindow) }
      trace := s.trace ++ os ++ [.log .bridge .sendFailed] }
    encode s.cfg (.telemNotify d1 d2 aux) = note ∧
    (∀ h, aux.length ≤ 123 → s.br.conn = some h → s.env.pins.sendOk = true →
      exec (.telemNotify d1 d2 aux) s = .next { s with
        br := { s.br with lastSend := some s.env.now, backoffDeadline := none }
        trace := s.trace ++ [.radioSend h note true, .notify note] }) ∧
    (∀ h, aux.length ≤ 123 → s.br.conn = some h → s.env.pins.sendOk = false →
      exec (.telemNotify d1 d2 aux) s = .next (failed [.radioSend h note false])) ∧
    (aux.length ≤ 123 → s.br.conn = none → exec (.telemNotify d1 d2 aux) s = .next (failed [])) ∧
    (123 < aux.length →
      exec (.telemNotify d1 d2 aux) s =
        .next { s with trace := s.trace ++ [.log .bridge (.payloadTooLong (aux.length + 2))] })

/-! ## frame_encoder -/

/-- R120, R121: `encode` gives `[SYNC, id] ++ payload ++ [sum8([id] ++ payload)]` of length n + 3 for at most 125 payload
bytes, whatever the id, and fails above. -/
def Obligations.EncodeGivesOneFrameOrFails : Prop :=
  ∀ (id : Byte) (payload : List Byte),
    (payload.length ≤ 125 →
      encodeFrame id payload = some ([0xA5, id] ++ payload ++ [sum8 ([id] ++ payload)]) ∧
      ([0xA5, id] ++ payload ++ [sum8 ([id] ++ payload)]).length = payload.length + 3) ∧
    (125 < payload.length → encodeFrame id payload = none)

/-- R126: `pack` is the frames back to back, zero-padded to 128 bytes, and fails when they exceed a block. -/
def Obligations.PackFillsOneBlockOrFails : Prop :=
  ∀ fs : List (List Byte),
    (fs.flatten.length ≤ 128 → ∃ b, pack fs = some b ∧ b.length = 128 ∧
      b = fs.flatten ++ zeros (128 - fs.flatten.length)) ∧
    (128 < fs.flatten.length → pack fs = none)

/-- R125 item 2: flipping bit k of the id or of one payload byte changes the checksum that is needed. -/
def Obligations.EveryBitFlipChangesTheChecksum : Prop :=
  ∀ (body : List Byte) (n : Nat) (k : Fin 8), n < body.length →
    sum8 (body.set n (body.getD n 0 ^^^ (1#8 <<< k.val))) ≠ sum8 body

/-- R137: from an accepted start with a payload length of at most 125, whatever the pace of the two handshakes, when the
serializer is back in E_IDLE it has taken exactly that many payload bytes and put out exactly their frame, `o_last` on the
last byte only. -/
def Obligations.SerialEncoderEmitsTheFrame : Prop :=
  ∀ (i : EncIn) (ins : List EncIn) (r : EncRegs), r.st = .idle → i.start = true → i.lenIn.toNat ≤ 125 →
    (encSerialize (encNext r i) ins).2.2.st = .idle →
    (encSerialize (encNext r i) ins).2.1.length = i.lenIn.toNat ∧
    (encSerialize (encNext r i) ins).1 =
      (((frameBytes i.idIn (encSerialize (encNext r i) ins).2.1).dropLast).map (fun b => (b, false)))
        ++ [(sum8 (i.idIn :: (encSerialize (encNext r i) ins).2.1), true)]

/-- R131 to R135: the serializer finishes: with both handshakes always ready, a frame of n payload bytes is back in E_IDLE
after n + 3 cycles, and its payload bytes are those offered in cycles 3 to n + 2. -/
def Obligations.SerialEncoderFinishes : Prop :=
  ∀ (i : EncIn) (ins : List EncIn) (r : EncRegs), r.st = .idle → i.start = true → i.lenIn.toNat ≤ 125 →
    ins.length = i.lenIn.toNat + 3 → (∀ x ∈ ins, x.oReady = true ∧ x.pValid = true) →
    (encSerialize (encNext r i) ins).2.2.st = .idle ∧
    (encSerialize (encNext r i) ins).2.1 = ((ins.drop 2).take i.lenIn.toNat).map EncIn.pData

/-- R131: in E_IDLE a start with a length of at most 125 loads the registers; one with a greater length pulses
`err_too_long`, raises E6 and changes no register; in any other state a start is ignored. `enc_b` and `enc_c` alike. -/
def Obligations.SerialEncoderStarts : Prop :=
  ∀ (i : EncIn) (s : State), i.start = true →
    (i.lenIn.toNat ≤ 125 →
      (s.br.enc.st = .idle → perform (.encClk .encB i) s =
        .next { s with br := { s.br with enc := ⟨.sync, i.idIn, i.lenIn.toNat, 0, 0⟩ } }) ∧
      (s.ct.enc.st = .idle → perform (.encClk .encC i) s =
        .next { s with ct := { s.ct with enc := ⟨.sync, i.idIn, i.lenIn.toNat, 0, 0⟩ } })) ∧
    (125 < i.lenIn.toNat →
      (s.br.enc.st = .idle → perform (.encClk .encB i) s =
        .next { s with trace := s.trace ++ [.encTooLong .encB, .log .bridge (.payloadTooLong i.lenIn.toNat)] }) ∧
      (s.ct.enc.st = .idle → perform (.encClk .encC i) s =
        .next { s with trace := s.trace ++ [.encTooLong .encC, .log .controller (.payloadTooLong i.lenIn.toNat)] })) ∧
    (s.br.enc.st ≠ .idle → perform (.encClk .encB i) s = perform (.encClk .encB { i with start := false }) s) ∧
    (s.ct.enc.st ≠ .idle → perform (.encClk .encC i) s = perform (.encClk .encC { i with start := false }) s)

/-! ## frame_decoder -/

/-- R152: an empty buffer waits; a byte that is not SYNC is skipped, alone, with E1. -/
def Obligations.DecoderSkipsGarbage : Prop :=
  ∀ c : Config, decodeStep c [] = .needMore ∧
    ∀ (b : Byte) (t : List Byte), b ≠ 0xA5 →
      decodeStep c (b :: t) = .skipped b ∧ (b :: t).drop (decodeStep c (b :: t)).consumed = t ∧
      stepErr? (decodeStep c (b :: t)) = some (.badSync b)

/-- R154: an identifier outside the eight is rejected with E2, and only the sync byte is removed. -/
def Obligations.DecoderRejectsAnUnknownIdentifier : Prop :=
  ∀ (c : Config) (id : Byte) (t : List Byte), id ∉ c.ids →
    decodeStep c (0xA5 :: id :: t) = .unknownId id ∧
    (0xA5 :: id :: t).drop (decodeStep c (0xA5 :: id :: t)).consumed = id :: t ∧
    stepErr? (decodeStep c (0xA5 :: id :: t)) = some (.unknownId id)

/-- R153, R155: a lone sync byte waits, and so does a known identifier without all of its payload and checksum; nothing is
removed and no checksum is judged. -/
def Obligations.DecoderWaitsForTheWholeFrame : Prop :=
  ∀ c : Config, decodeStep c [0xA5] = .needMore ∧
    ∀ (id : Byte) (k : Kind) (t : List Byte), c.lookup id = some k →
      (0xA5 :: id :: t).length < k.plen + 3 →
      decodeStep c (0xA5 :: id :: t) = .needMore ∧
      (0xA5 :: id :: t).drop (decodeStep c (0xA5 :: id :: t)).consumed = 0xA5 :: id :: t

/-- R156: a whole candidate with a wrong checksum raises E4, returns no frame, and loses its sync byte only. -/
def Obligations.DecoderRejectsABadChecksum : Prop :=
  ∀ (c : Config) (id cks : Byte) (k : Kind) (payload t : List Byte), c.lookup id = some k →
    payload.length = k.plen → cks ≠ sum8 (id :: payload) →
    decodeStep c (0xA5 :: id :: payload ++ cks :: t) = .badChecksum id ∧
    (0xA5 :: id :: payload ++ cks :: t).drop (decodeStep c (0xA5 :: id :: payload ++ cks :: t)).consumed
      = id :: payload ++ cks :: t ∧
    stepErr? (decodeStep c (0xA5 :: id :: payload ++ cks :: t)) = some (.checksumMismatch id) ∧
    (decodeStep c (0xA5 :: id :: payload ++ cks :: t)).frame? = none

/-- R157: a whole candidate with the right checksum is returned, with that identifier and payload; its L + 3 bytes are
removed and no error is raised. -/
def Obligations.DecoderReturnsAValidFrame : Prop :=
  ∀ (c : Config) (id : Byte) (k : Kind) (payload t : List Byte), c.lookup id = some k → payload.length = k.plen →
    ∃ i : Instr, decodeStep c (0xA5 :: id :: payload ++ sum8 (id :: payload) :: t) = .frame i ∧
      i.decodable = true ∧ i.id c = id ∧ i.payload = payload ∧
      (0xA5 :: id :: payload ++ sum8 (id :: payload) :: t).drop
        (decodeStep c (0xA5 :: id :: payload ++ sum8 (id :: payload) :: t)).consumed = t ∧
      stepErr? (decodeStep c (0xA5 :: id :: payload ++ sum8 (id :: payload) :: t)) = none

/-- Words written out from opcode_table.json and 95_test_vectors.md decode to their instructions under REFCFG, in the
numbering of the table (notes/assumptions/13.md): one of each family. -/
def Obligations.WrittenWordsDecode : Prop :=
  decodeTableWord 24 0b101001010101000001010000 = some .ping ∧
  decodeTableWord 24 0b101001010011000000110000 = some .liftExtend ∧
  decodeTableWord 24 0b101001010100001001000010 = some .tiltBrake ∧
  decodeTableWord 40 0b1010010101100000000100100011010010100110 = some (.telem 0x12 0x34) ∧
  decodeTableWord 72 0xA56012340064012C37 = some (.telemNotify 0x12 0x34 [0x00, 0x64, 0x01, 0x2C])

/-- R147: under any configuration with eight distinct identifiers, whatever bytes follow, the decoder reads from an
encoded frame exactly that frame, with every operand, and removes exactly its bytes. And it reads an encoded identifier and
payload back exactly when the identifier is one of the eight and the payload has its length, so no notification with
auxiliary bytes. -/
def Obligations.DecodeOfEncodeIsTheFrame : Prop :=
  (∀ (c : Config) (i : Instr) (rest : List Byte), c.idsDistinct = true → i.decodable = true →
    decodeStep c (encode c i ++ rest) = .frame i ∧
    (encode c i ++ rest).drop (decodeStep c (encode c i ++ rest)).consumed = rest) ∧
  (∀ (c : Config) (id : Byte) (payload : List Byte),
    (∃ i, decodeStep c (frameBytes id payload) = .frame i ∧ i.id c = id ∧ i.payload = payload) ↔
      ∃ k, c.lookup id = some k ∧ payload.length = k.plen)

/-- R99: the notification form read back by its receiver gives every operand; the controller's decoder reads no
notification form from any bytes (R104). -/
def Obligations.NotificationFormRoundTrips : Prop :=
  (∀ (c : Config) (d1 d2 : Byte) (aux : List Byte), (Instr.telemNotify d1 d2 aux).wf c = true →
    decodeNotify c (encode c (.telemNotify d1 d2 aux)) = some (.telemNotify d1 d2 aux)) ∧
  (∀ (c : Config) (bs : List Byte) (i : Instr), decodeStep c bs = .frame i → i.decodable = true)

/-- R165: N garbage bytes and then a valid frame decode to exactly that frame, and all N + frame_length bytes go. -/
def Obligations.DecoderResynchronises : Prop :=
  ∀ (c : Config) (g : List Byte) (i : Instr), c.idsDistinct = true → i.decodable = true → 0xA5 ∉ g →
    (run c (g ++ encode c i)).frames = [i] ∧ (run c (g ++ encode c i)).pend = []

/-- R161: every step that decides removes at least one byte, so `run()` ends, in NeedMoreBytes; `pend` is then `[]`, or
`[SYNC]`, or SYNC with a known identifier and fewer bytes than its frame, at most 4 in all. -/
def Obligations.RunLeavesAQuiescentDecoder : Prop :=
  ∀ (c : Config) (pend : List Byte),
    (decodeStep c pend ≠ .needMore → (pend.drop (decodeStep c pend).consumed).length < pend.length) ∧
    decodeStep c (run c pend).pend = .needMore ∧ (run c pend).pend.length ≤ 4 ∧
    ((run c pend).pend = [] ∨ (run c pend).pend = [0xA5] ∨
      ∃ (id : Byte) (k : Kind) (t : List Byte), (run c pend).pend = 0xA5 :: id :: t ∧ c.lookup id = some k ∧
        (run c pend).pend.length < k.plen + 3)

/-- R162: however a byte sequence is cut into pieces, feeding and running piece by piece gives the outcomes, in order, and
the final `pend` of feeding it whole; from any quiescent `pend`. -/
def Obligations.DecoderIsRestartable : Prop :=
  ∀ (c : Config) (pend : List Byte) (pieces : List (List Byte)), decodeStep c pend = .needMore →
    runPieces c ⟨[], pend⟩ pieces = run c (feed pend pieces.flatten)

/-- R164: a block that ends in four zero bytes leaves nothing pending, so the two modes of DEC_FLUSH_AT_BLOCK_END agree. -/
def Obligations.ZeroTailLeavesNothingPending : Prop :=
  ∀ (c : Config) (bs : List Byte), (run c (bs ++ zeros 4)).pend = []

/-- R264 (and R270's decoding): the brake block is the two packed brake frames, lift first, then 122 zeros; it decodes,
from an empty `pend`, to those two frames in order and 122 skipped zeros. -/
def Obligations.BrakeBlockDecodesToTwoBrakes : Prop :=
  ∀ c : Config,
    pack [encode c .liftBrake, encode c .tiltBrake] = some (brakeBlock c) ∧
    brakeBlock c = [0xA5, c.idLiftBrake, c.idLiftBrake, 0xA5, c.idTiltBrake, c.idTiltBrake] ++ zeros 122 ∧
    (c.idsDistinct = true →
      run c (brakeBlock c) = ⟨[.frame .liftBrake, .frame .tiltBrake] ++ List.replicate 122 (.skipped 0x00), []⟩)

/-- R170: the byte-serial decoder performs the steps of `feed` and `run()`: as long as no flush is performed its outcomes,
followed by those still possible in its buffer, are those of running on everything it has taken; its five-byte buffer never
overflows. And one cycle on the machine: it waits, taking an offered byte, and performing R163 where the port asks for it on
dec_blk under DEC_FLUSH_AT_BLOCK_END; or it applies the possible step, with one pulse of `f_valid` or of `err_valid` and its
code, whatever the inputs. That the buffer is a list and a flush comes before the offered byte is notes/assumptions/9.md; that
the E1 of a 0x00 is logged is notes/assumptions/24.md. -/
def Obligations.SerialDecoderAgreesWithRun : Prop :=
  (∀ (c : Config) (d : DecSel) (buf : List Byte) (ins : List DecIn), buf.length ≤ 5 →
    (∀ x ∈ ins, ¬ (x.flush = true ∧ c.decFlushAtBlockEnd = true ∧ d = .decBlk)) →
    (decSerialize c d buf ins).2.2.length ≤ 5 ∧
    run c (feed buf (decSerialize c d buf ins).2.1) =
      ⟨(decSerialize c d buf ins).1 ++ (run c (decSerialize c d buf ins).2.2).outs,
        (run c (decSerialize c d buf ins).2.2).pend⟩) ∧
  (∀ (d : DecSel) (i : DecIn) (s : State),
    let buf := s.ct.serBuf d
    let flushed := i.flush = true ∧ s.cfg.decFlushAtBlockEnd = true ∧ d = .decBlk
    let cycle (b : List Byte) (os : List Output) : Prop :=
      perform (.decClk d i) s = .next { s with ct := s.ct.setSerBuf b d, trace := s.trace ++ os }
    (decodeStep s.cfg buf = .needMore →
      cycle ((if flushed then [] else buf) ++ (if i.inValid = true then [i.inData] else []))
        (if flushed ∧ buf ≠ [] then [.log .controller (.lengthMismatch buf.length)] else [])) ∧
    (∀ b, decodeStep s.cfg buf = .skipped b → cycle (buf.drop 1) [.decErr d 1, .log .controller (.badSync b)]) ∧
    (∀ id, decodeStep s.cfg buf = .unknownId id → cycle (buf.drop 1) [.decErr d 2, .log .controller (.unknownId id)]) ∧
    (∀ id, decodeStep s.cfg buf = .badChecksum id →
      cycle (buf.drop 1) [.decErr d 4, .log .controller (.checksumMismatch id)]) ∧
    (∀ d1 d2, decodeStep s.cfg buf = .frame (.telem d1 d2) → cycle (buf.drop 5) [.decFrame d 0x60 (some (d1 ++ d2))]) ∧
    (∀ f : Instr, decodeStep s.cfg buf = .frame f → f.payload = [] →
      cycle (buf.drop 3) [.decFrame d (f.id s.cfg) none]))

/-! ## How a step comes to run an instruction -/

/-- The next supplied stimulus is performed; with none, a free one is (notes/assumptions/2.md), whatever it is. An event that
arrives waits behind those already there (R293), and an agent with nothing to do leaves the machine as it is
(notes/assumptions/15.md). -/
def Obligations.StepPerformsTheNextStimulus : Prop :=
  ∀ s : State,
    (s.cfg.wf = true → ∀ x xs, s.env.inputs = x :: xs → step s = perform x { s with env := { s.env with inputs := xs } }) ∧
    (s.cfg.wf = true → s.env.inputs = [] →
      step s = perform (Config.freeStim s.env.draws) { s with env := { s.env with draws := s.env.draws + 1 } }) ∧
    (∀ e, perform (.arrive e) s = .next { s with br := { s.br with evtQ := s.br.evtQ ++ [e] } }) ∧
    (s.br.evtPc = .idle → s.br.evtQ = [] → runAgent .evt s = .next s) ∧
    (s.ct.cSt = .poll → s.ct.inflight = [] → runAgent .cml s = .next s) ∧
    (s.ct.cSt ≠ .poll ∨ s.ct.inflight ≠ [] ∨ s.env.pins.uartIn = [] → runAgent .uart s = .next s)

/-- R213: a UART poll feeds and runs `dec_uart` and executes the first frame found, the others staying in flight in order;
`settle` is the return to C_POLL. Where no frame is found the errors are logged, the rest is kept, and nothing else changes.
One frame a step is notes/assumptions/5.md; that the E1 of a 0x00 is logged is notes/assumptions/24.md. -/
def Obligations.UartPollExecutesTheDecodedFrame : Prop :=
  ∀ s : State, s.ct.cSt = .poll → s.ct.inflight = [] → s.env.pins.uartIn ≠ [] →
    let r := run s.cfg (feed s.ct.decUart s.env.pins.uartIn)
    (∀ i fs, r.frames = i :: fs → runAgent .uart s =
      andThen (exec i { s with ct := { s.ct with decUart := r.pend, inflight := fs }, trace := s.trace ++ runLog r.outs })
        (fun t => .next (settle t))) ∧
    (r.frames = [] → runAgent .uart s =
      .next { s with ct := { s.ct with decUart := r.pend }, trace := s.trace ++ runLog r.outs })

/-- A step runs the decoded instruction: when the next stimulus is a UART poll that delivers to a quiescent decoder the
bytes of one frame i, the step is exec of i, in the state whose draws are latched, and then the return to C_POLL
(notes/assumptions/5.md, 14.md). -/
def Obligations.StepRunsTheFrameItReads : Prop :=
  ∀ (s : State) (p : Pins) (xs : List Stim) (i : Instr), s.cfg.wf = true → i.decodable = true →
    s.env.inputs = .run .uart p :: xs → p.uartIn = encode s.cfg i →
    s.ct.cSt = .poll → s.ct.inflight = [] → s.ct.decUart = [] →
    step s = andThen (exec i (latch p { s with env := { s.env with inputs := xs } })) (fun t => .next (settle t))

/-- R212, R163: a received block is fed and run; where DEC_FLUSH_AT_BLOCK_END is true an incomplete tail is then discarded
with E3; the first frame is executed, the others staying in flight in order, and with no frame the controller polls again.
One frame a step is notes/assumptions/5.md; that the E1 of a 0x00 is logged is notes/assumptions/24.md. -/
def Obligations.BlockDecodeExecutesTheFirstFrame : Prop :=
  ∀ s : State, s.ct.cSt = .decode → s.ct.inflight = [] →
    let r := run s.cfg (feed s.ct.decBlk s.ct.cRx)
    let flushed := s.cfg.decFlushAtBlockEnd = true ∧ r.pend ≠ []
    let logs := runLog r.outs ++ (if flushed then [.log .controller (.lengthMismatch r.pend.length)] else [])
    let pend := if flushed then [] else r.pend
    (∀ i fs, r.frames = i :: fs → runAgent .cml s =
      andThen (exec i { s with ct := { s.ct with decBlk := pend, inflight := fs }, trace := s.trace ++ logs })
        (fun t => .next (settle t))) ∧
    (r.frames = [] → runAgent .cml s =
      .next { s with ct := { s.ct with decBlk := pend, cSt := .poll }, trace := s.trace ++ logs })

/-- R182: the frames in flight are executed one a step, in order, and then the controller polls again. -/
def Obligations.FramesInFlightExecuteInOrder : Prop :=
  ∀ s : State, s.ct.inflight ≠ [] →
    cmlSteps s.ct.inflight.length s =
      andThen (execAll s.ct.inflight { s with ct := { s.ct with inflight := [] } })
        (fun t => .next { t with ct := { t.ct with cSt := .poll } })

/-- The model's reading of R239 and R242 (notes/assumptions/12.md, 4.md): when the outbound path has passed its gate and the
main loop steps next, that step is exec of the notification it built, and the path then ends in a further step. -/
def Obligations.StepSendsTheGatedNotification : Prop :=
  ∀ (s : State) (p : Pins) (xs : List Stim) (d1 d2 : Byte) (aux : List Byte), s.cfg.wf = true →
    s.env.inputs = .run .bml p :: xs → s.br.bmlPc = .send d1 d2 aux →
    step s = andThen (exec (.telemNotify d1 d2 aux) (latch p { s with env := { s.env with inputs := xs } }))
      (fun t => .next (t.goto .finish))

/-- R270 on the machine: a completed exchange of the brake block leaves, after the two decode steps, both channels last
commanded to brake. Rests on the granularity of notes/assumptions/5.md. -/
def Obligations.ReceivedBrakeBlockBrakesBothChannels : Prop :=
  ∀ s : State, s.cfg.idsDistinct = true → s.ct.cSt = .decode → s.ct.inflight = [] → s.ct.decBlk = [] →
    s.ct.cRx = brakeBlock s.cfg →
    ∃ t, cmlSteps 2 s = .next t ∧ t.Braked ∧ t.ct.cSt = .poll ∧ t.ct.decBlk = [] ∧ t.br = s.br

/-! ## bridge_relay_buffer: the event context -/

/-- R231 (and R230's entry): below capacity a payload is appended, padded or truncated to 128 bytes, in one step. -/
def Obligations.PayloadIsEnqueuedAsOneBlock : Prop :=
  ∀ (s : State) (p : List Byte) (es : List Event), s.br.evtPc = .idle → s.br.evtQ = .wirelessRx p :: es →
    s.br.q.length < s.cfg.queueCap →
    runAgent .evt s = .next { s with br := { s.br with evtQ := es, q := s.br.q ++ [(p ++ zeros 128).take 128] } } ∧
    ((p ++ zeros 128).take 128).length = 128

/-- R232, R287: at capacity the payload is dropped, the queue stays, `ovf_trig` becomes 1 and E7 is raised, in one step. -/
def Obligations.FullQueueLatchesTheOverflowTrigger : Prop :=
  ∀ (s : State) (p : List Byte) (es : List Event), s.br.evtPc = .idle → s.br.evtQ = .wirelessRx p :: es →
    s.br.q.length = s.cfg.queueCap →
    runAgent .evt s = .next { s with
      br := { s.br with evtQ := es, ovfTrig := true }
      trace := s.trace ++ [.log .bridge .queueFull] }

/-- R233: connect writes `conn`, then `link`, and nothing else. -/
def Obligations.ConnectWritesConnThenLink : Prop :=
  ∀ (s : State) (h : Handle) (es : List Event), s.br.evtPc = .idle → s.br.evtQ = .connect h :: es →
    (evtSteps 1 s).br.conn = some h ∧ (evtSteps 1 s).br.link = s.br.link ∧
    evtSteps 2 s = { s with br := { s.br with evtQ := es, conn := some h, link := .connected } }

/-- R234, R261: disconnect latches its trigger, with E9, only if the link was connected; then `link` is cleared, then `conn`;
the trigger stays latched in every state between; nothing else changes. -/
def Obligations.DisconnectLatchesBeforeItClears : Prop :=
  ∀ (s : State) (es : List Event), s.br.evtPc = .idle → s.br.evtQ = .disconnect :: es →
    (evtSteps 1 s).br.discTrig = (s.br.discTrig || decide (s.br.link = .connected)) ∧
    (evtSteps 1 s).br.link = s.br.link ∧ (evtSteps 1 s).br.conn = s.br.conn ∧
    (evtSteps 2 s).br.discTrig = (s.br.discTrig || decide (s.br.link = .connected)) ∧
    (evtSteps 2 s).br.link = .disconnected ∧ (evtSteps 2 s).br.conn = s.br.conn ∧
    evtSteps 3 s = { s with
      br := { s.br with
        evtQ := es, link := .disconnected, conn := none
        discTrig := s.br.discTrig || decide (s.br.link = .connected) }
      trace := s.trace ++ (if s.br.link = .connected then [.log .bridge .peerDisconnect] else []) }

/-! ## handshake_transport_link and fail_safe_detector -/

/-- R203, R262, R263, R298: uninterrupted, in its five steps (notes/assumptions/4.md), a cycle that may start takes the
oldest entry or zeros, clears both triggers, and has prepared that block, or the brake block if either trigger was set; a
cycle that may not start waits. -/
def Obligations.PreparationTakesTheEntryOrBrakes : Prop :=
  ∀ s : State, s.br.pSt = .wait → s.br.bmlPc = .idle →
    (s.br.q ≠ [] ∨ s.cfg.queueWaitTimeout ≤ s.env.now - s.br.waitT0 →
      bmlSteps 5 s = .next { s with br := { s.br with
        q := s.br.q.tail
        bTx := if s.br.discTrig = true ∨ s.br.ovfTrig = true then brakeBlock s.cfg else s.br.q.headD (zeros 128)
        discTrig := false
        ovfTrig := false
        pSt := .prepared } }) ∧
    (s.br.q = [] → s.env.now - s.br.waitT0 < s.cfg.queueWaitTimeout → runAgent .bml s = .next s)

/-- R268, R269: an event that latches a trigger, followed by an uninterrupted preparation in its five steps
(notes/assumptions/4.md), gives the brake block, whatever is queued. -/
def Obligations.LatchedTriggerMakesTheNextBlockABrakeBlock : Prop :=
  ∀ (s : State) (e : Event), s.br.evtPc = .idle → s.br.evtQ = [e] → s.br.pSt = .wait → s.br.bmlPc = .idle →
    ((∃ p, e = .wirelessRx p ∧ s.br.q.length = s.cfg.queueCap ∧ 1 ≤ s.cfg.queueCap) ∨
      (e = .disconnect ∧ s.br.link = .connected ∧
        (s.br.q ≠ [] ∨ s.cfg.queueWaitTimeout ≤ s.env.now - s.br.waitT0))) →
    ∃ t, bmlSteps 5 (evtSteps 3 s) = .next t ∧
      t.br.bTx = brakeBlock s.cfg ∧ t.br.pSt = .prepared ∧ t.br.discTrig = false ∧ t.br.ovfTrig = false ∧
      t.br.q = s.br.q.tail

/-- R39's two flops, clocked by the edges that each step draws, which is the model's choice (notes/assumptions/6.md; R210 asks
only for a finite, unbounded delay): after two edges of its clock the consumer sees the ready level; after one, what its first
flop held. -/
def Obligations.ReadyLevelCrossesInTwoEdges : Prop :=
  ∀ (p : Pins) (s : State),
    (2 ≤ p.clkC → (latch p s).ct.rdySync = s.br.ready) ∧
    (p.clkC = 1 → (latch p s).ct.rdySync = s.ct.rdyMeta ∧ (latch p s).ct.rdyMeta = s.br.ready) ∧
    (p.clkC = 0 → (latch p s).ct.rdySync = s.ct.rdySync)

/-- R211: with ready observed, the controller composes its telemetry frame at offset 0, or an all-zero block, once for each
exchange; where composing is not enabled the step changes nothing. The guard's two levels are notes/assumptions/6.md, its frames
in flight notes/assumptions/5.md. -/
def Obligations.ConsumerComposesItsTelemetryBlock : Prop :=
  ∀ s : State,
    (s.ct.cSt = .poll → s.ct.inflight = [] → s.ct.composed = false → s.ct.rdySync = true → s.br.ready = true →
      (s.env.pins.telemIn = none →
        runAgent .compose s = .next { s with ct := { s.ct with cTx := zeros 128, composed := true } }) ∧
      (∀ d1 d2, s.env.pins.telemIn = some (d1, d2) →
        runAgent .compose s = .next { s with ct := { s.ct with
          cTx := [0xA5, 0x60, d1, d2, 0x60 + d1 + d2] ++ zeros 123, composed := true } })) ∧
    (s.ct.cSt ≠ .poll ∨ s.ct.inflight ≠ [] ∨ s.ct.composed = true ∨ s.ct.rdySync = false ∨ s.br.ready = false →
      runAgent .compose s = .next s)

/-- R206, R207: an enabled exchange whose draw is ok swaps the two blocks whole, deasserts ready and moves both loops on; one
whose draw is not ok is the failed exchange of R207; where a guard does not hold there is no exchange. The guard on frames in
flight is the model's choice (notes/assumptions/5.md), and so is `failInitiated`, a drawn failure being one that the controller
initiated (notes/assumptions/7.md). -/
def Obligations.ExchangeSwapsTheBlocksOrFails : Prop :=
  ∀ s : State,
    (s.br.pSt = .ready → s.br.ready = true → s.ct.cSt = .poll → s.ct.inflight = [] → s.ct.composed = true →
      (s.env.pins.xferOk = true → runAgent .exchange s = .next { s with
        br := { s.br with bRx := s.ct.cTx, xferOk := true, ready := false, pSt := .post }
        ct := { s.ct with cRx := s.br.bTx, cSt := .decode, composed := false } }) ∧
      (s.env.pins.xferOk = false → runAgent .exchange s = .next (failInitiated s))) ∧
    (s.br.pSt ≠ .ready ∨ s.ct.cSt ≠ .poll ∨ s.ct.inflight ≠ [] ∨ s.ct.composed = false → runAgent .exchange s = .next s)

/-- R207, R292: an exchange that fails, by draw or by timeout, deasserts ready, raises E10 on the bridge, and on the
controller where it had initiated the exchange, delivers nothing to a decoder, and re-queues nothing; what the receive buffers
then hold is drawn (U7). Who logs, and the buffer that is kept, are notes/assumptions/7.md. R205: before the timeout the main
loop holds, changing nothing. -/
def Obligations.FailedExchangeDeliversNothing : Prop :=
  ∀ s : State, s.br.pSt = .ready → s.br.ready = true → s.br.bmlPc = .idle →
    (s.ct.cSt = .poll ∧ s.ct.inflight = [] ∧ s.ct.composed = true ∧ s.env.pins.xferOk = false →
      ∃ t, runAgent .exchange s = .next t ∧ t.ct.decBlk = s.ct.decBlk ∧ t.ct.cSt = .poll ∧ t.ct.actLift = s.ct.actLift ∧
        t.ct.actTilt = s.ct.actTilt ∧ t.br.ready = false ∧ t.br.xferOk = false ∧ t.br.pSt = .post ∧ t.br.q = s.br.q ∧
        t.trace = s.trace ++ [.log .bridge .exchangeFailed, .log .controller .exchangeFailed]) ∧
    (s.cfg.xferTimeout ≤ s.env.now - s.br.xferT0 →
      ∃ t, runAgent .bml s = .next t ∧ t.ct.decBlk = s.ct.decBlk ∧ t.ct.cSt = s.ct.cSt ∧ t.ct.actLift = s.ct.actLift ∧
        t.ct.actTilt = s.ct.actTilt ∧ t.br.ready = false ∧ t.br.xferOk = false ∧ t.br.pSt = .post ∧ t.br.q = s.br.q ∧
        (s.ct.cSt = .decode → t.ct.cRx = s.ct.cRx) ∧ t.trace = s.trace ++ [.log .bridge .exchangeFailed]) ∧
    (s.env.now - s.br.xferT0 < s.cfg.xferTimeout → runAgent .bml s = .next s)

/-! ## The outbound path -/

/-- R236, R237, R238: after a failed exchange, or with a block that does not begin SYNC, ID_TELEMETRY, the cycle ends (R208)
with nothing sent and nothing logged. A recognised block goes to the gate as a notification, with its own two bytes and the
auxiliary bytes; a checksum mismatch is logged and changes nothing else. That this is one step is notes/assumptions/4.md. -/
def Obligations.OutboundPathLooksForTelemetry : Prop :=
  ∀ s : State, s.br.pSt = .post → s.br.bmlPc = .idle →
    ((s.br.xferOk = false ∨ s.br.bRx.getD 0 0 ≠ 0xA5 ∨ s.br.bRx.getD 1 0 ≠ 0x60) →
      runAgent .bml s = .next { s with br := { s.br with xferOk := false, waitT0 := s.env.now, pSt := .wait } }) ∧
    (s.br.xferOk = true → s.br.bRx.getD 0 0 = 0xA5 → s.br.bRx.getD 1 0 = 0x60 →
      runAgent .bml s = .next { s with
        br := { s.br with
          bmlPc := .gate .link (s.br.bRx.getD 2 0) (s.br.bRx.getD 3 0) (auxBytes s.cfg.auxFields s.env.pins.auxIn) }
        trace := s.trace ++ (if s.br.bRx.getD 4 0 = sum8 [0x60, s.br.bRx.getD 2 0, s.br.bRx.getD 3 0] then []
          else [.log .bridge (.telemetryChecksumMismatch (s.br.bRx.getD 4 0))]) })

/-- R241, R245: the gate reads its three fields one at a time: the link must be connected, then the minimum interval passed
since the last attempt, then no backoff window open, each at the time it is read; where one fails the notification is
discarded, nothing is logged and the cycle ends (R208). That the failing read and the end of the cycle are one step is
notes/assumptions/4.md. -/
def Obligations.GateDecidesWhetherTelemetryIsSent : Prop :=
  ∀ (s : State) (d1 d2 : Byte) (aux : List Byte),
    let discarded : State := { s with br := { s.br with xferOk := false, waitT0 := s.env.now, pSt := .wait, bmlPc := .idle } }
    let goOn (pc : BmlPc) : State := { s with br := { s.br with bmlPc := pc } }
    (s.br.bmlPc = .gate .link d1 d2 aux → runAgent .bml s = .next
      (if s.br.link = .connected then goOn (.gate .interval d1 d2 aux) else discarded)) ∧
    (s.br.bmlPc = .gate .interval d1 d2 aux → runAgent .bml s = .next
      (if ∀ t, s.br.lastSend = some t → s.cfg.minSendInterval ≤ s.env.now - t then goOn (.gate .backoff d1 d2 aux)
        else discarded)) ∧
    (s.br.bmlPc = .gate .backoff d1 d2 aux → runAgent .bml s = .next
      (if ∀ t, s.br.backoffDeadline = some t → t ≤ s.env.now then goOn (.send d1 d2 aux) else discarded))

/-- R61, R100, R240: each auxiliary reading occupies its width, most significant byte first, so the bytes read back as its
value; together they are AUX_LEN bytes. -/
def Obligations.AuxiliaryReadingsAreBigEndian : Prop :=
  (∀ (w v : Nat), v < 256 ^ w → (beBytes w v).foldl (fun a b => a * 256 + b.toNat) 0 = v) ∧
  (∀ (ws as : List Nat), (auxBytes ws as).length = ws.sum) ∧
  (∀ (w a : Nat) (ws as : List Nat), auxBytes (w :: ws) (a :: as) = beBytes w a ++ auxBytes ws as)

/-- R239, R247: for recognised telemetry that passes the gate and an accepted send, the main loop emits one notification:
the first four bytes of the block, the auxiliary bytes, and the recomputed checksum of all but the sync byte; whether or not
the block's own checksum was right. The cycle then ends (R208). That this takes six steps is notes/assumptions/4.md. -/
def Obligations.NotificationEchoesTheTelemetry : Prop :=
  ∀ (s : State) (h : Handle), s.br.pSt = .post → s.br.bmlPc = .idle → s.br.xferOk = true → 5 ≤ s.br.bRx.length →
    s.br.bRx.getD 0 0 = 0xA5 → s.br.bRx.getD 1 0 = 0x60 → s.cfg.auxLen ≤ 123 →
    maySend s = true → s.br.conn = some h → s.env.pins.sendOk = true →
    let aux := auxBytes s.cfg.auxFields s.env.pins.auxIn
    let note := s.br.bRx.take 4 ++ aux ++ [sum8 ((s.br.bRx.take 4).drop 1 ++ aux)]
    note.length = s.cfg.auxLen + 5 ∧
    ∃ (t : State) (l : List Output), bmlSteps 6 s = .next t ∧
      t.trace = s.trace ++ l ++ [.radioSend h note true, .notify note] ∧ (∀ o ∈ l, o.isSend = false) ∧
      t.br.lastSend = some s.env.now ∧ t.br.backoffDeadline = none ∧ t.br.pSt = .wait ∧ t.br.xferOk = false

/-! ## The whole machine -/

/-- R320: both devices after reset hold the values of the table, whatever the configuration and the times. -/
def Obligations.ResetHoldsTheTable : Prop :=
  ∀ (c : Config) (t tC : Nat),
    let b := (State.resetAt c t tC).br
    let k := (State.resetAt c t tC).ct
    b.q = [] ∧ b.ovfTrig = false ∧ b.discTrig = false ∧ b.link = .disconnected ∧ b.conn = none ∧ b.lastSend = none ∧
    b.backoffDeadline = none ∧ b.pSt = .wait ∧ b.bTx = zeros 128 ∧ b.bRx = zeros 128 ∧ b.ready = false ∧
    b.waitT0 = t ∧ b.xferT0 = t ∧ b.xferOk = false ∧ b.enc = ⟨.idle, 0, 0, 0, 0⟩ ∧
    k.cTx = zeros 128 ∧ k.cRx = zeros 128 ∧ k.cSt = .poll ∧ k.rdyMeta = false ∧ k.rdySync = false ∧ k.decBlk = [] ∧
    k.decUart = [] ∧ k.actLift = none ∧ k.actTilt = none ∧ k.enc = ⟨.idle, 0, 0, 0, 0⟩ ∧
    (State.resetAt c t tC).env.now = t ∧ (State.resetAt c t tC).env.nowC = tC ∧ (State.resetAt c t tC).trace = []

/-- R321, R322, R324: resetting one device puts its state at the reset values, with the timestamps at the current time, and
leaves the other device as it is, but that a consumer which had composed its block composes again; nothing is put out.
`State.reset` is the reset of both under REFCFG at times 0. The composing, the configuration and the time are the model's
choices (notes/assumptions/16.md, 1.md, 3.md). -/
def Obligations.DeviceResetsAreIndependent : Prop :=
  State.reset = State.resetAt Config.refcfg 0 0 ∧
  ∀ s : State,
    perform .resetBridge s =
      .next { s with br := (State.resetAt s.cfg s.env.now s.env.nowC).br, ct := { s.ct with composed := false } } ∧
    perform .resetController s = .next { s with ct := (State.resetAt s.cfg s.env.now s.env.nowC).ct }

/-- R98, R10, R323: a step refuses the configuration under one name exactly when two of the eight identifiers are equal, and
under the other exactly when they are distinct and another parameter is outside its constraint. That a step refuses it, every
time, is notes/assumptions/19.md. -/
def Obligations.InadmissibleConfigurationsAreRefused : Prop :=
  ∀ s : State,
    (step s = .refused .ambiguousIdentifiers ↔ ¬ s.cfg.ids.Nodup) ∧
    (step s = .refused .configurationOutOfRange ↔ s.cfg.ids.Nodup ∧
      ¬ (1 ≤ s.cfg.queueCap ∧ 0 < s.cfg.backoffWindow ∧ 0 < s.cfg.queueWaitTimeout ∧ 0 < s.cfg.xferTimeout ∧
        s.cfg.auxFields.sum ≤ 123))

/-- R48: the state after reset is sound, under every admissible configuration and at every time. -/
def Obligations.ResetIsSound : Prop := ∀ (c : Config) (t tC : Nat), c.wf = true → (State.resetAt c t tC).Inv

/-- R48, R161, R209: every step keeps a sound state sound, whatever the environment does. -/
def Obligations.EveryStepKeepsTheStateSound : Prop := ∀ s t : State, s.Inv → step s = .next t → t.Inv

/-- R280: no error stops the machine: from a sound state under an admissible configuration, every step has a next state. -/
def Obligations.NoStepStops : Prop := ∀ s : State, s.cfg.wf = true → s.Inv → ∃ t, step s = .next t

/-- R16, R181, R291, R307: in a step neither device's time goes back, the configuration stays, and no output is withdrawn. -/
def Obligations.TimeConfigurationAndOutputGoForward : Prop :=
  ∀ s t : State, step s = .next t → s.env.now ≤ t.env.now ∧ s.env.nowC ≤ t.env.nowC ∧ t.cfg = s.cfg ∧ s.trace <+: t.trace

/-- R306: what an agent does not own it does not write. The registers of the byte-serial encoders and decoders are written by
their own clock cycles alone (notes/assumptions/8.md, 9.md). -/
def Obligations.OnlyTheOwnerWrites : Prop :=
  ∀ (a : Agent) (s t : State), s.Inv → runAgent a s = .next t →
    (a ≠ .evt → t.br.link = s.br.link ∧ t.br.conn = s.br.conn ∧ t.br.evtQ = s.br.evtQ ∧
      (t.br.discTrig = true → s.br.discTrig = true) ∧ (t.br.ovfTrig = true → s.br.ovfTrig = true)) ∧
    (a ≠ .bml → t.br.lastSend = s.br.lastSend ∧ t.br.backoffDeadline = s.br.backoffDeadline ∧ t.br.bTx = s.br.bTx ∧
      t.br.waitT0 = s.br.waitT0 ∧ t.br.xferT0 = s.br.xferT0) ∧
    (a ≠ .bml → a ≠ .exchange → t.br.pSt = s.br.pSt ∧ t.br.ready = s.br.ready ∧ t.br.xferOk = s.br.xferOk ∧
      t.br.bRx = s.br.bRx ∧ t.ct.cRx = s.ct.cRx) ∧
    (a ≠ .evt → a ≠ .bml → t.br.q = s.br.q ∧ t.br.discTrig = s.br.discTrig ∧ t.br.ovfTrig = s.br.ovfTrig) ∧
    (a ≠ .compose → t.ct.cTx = s.ct.cTx) ∧
    (a ≠ .cml → a ≠ .exchange → t.ct.cSt = s.ct.cSt) ∧
    (t.br.enc = s.br.enc ∧ t.ct.enc = s.ct.enc ∧ t.ct.serBlk = s.ct.serBlk ∧ t.ct.serUart = s.ct.serUart) ∧
    (a ≠ .cml → a ≠ .uart → t.ct.decBlk = s.ct.decBlk ∧ t.ct.decUart = s.ct.decUart ∧ t.ct.actLift = s.ct.actLift ∧
      t.ct.actTilt = s.ct.actTilt)

/-- R204 (with R80, R201, R209 (b), R330): from P_PREPARED the ready line is asserted and the exchange timeout starts; and from
there to the end of the cycle, that is outside P_WAIT, no step but a reset of the bridge changes `b_tx`. -/
def Obligations.PreparedBlockIsAnnouncedAndHeld : Prop :=
  (∀ s : State, s.br.pSt = .prepared → s.br.bmlPc = .idle →
    runAgent .bml s = .next { s with br := { s.br with ready := true, xferT0 := s.env.now, pSt := .ready } }) ∧
  (∀ s t : State, s.Inv → s.br.pSt ≠ .wait → nextStim s ≠ .resetBridge → step s = .next t → t.br.bTx = s.br.bTx)

/-- R26, R72, R75 item 1: the queue gains an entry only at its tail, by a received payload and below its capacity, and loses
one only at its head, to `b_tx`, in P_WAIT; only a reset of the bridge empties it. -/
def Obligations.QueueChangesOnlyAtItsEnds : Prop :=
  ∀ s t : State, step s = .next t → nextStim s ≠ .resetBridge →
    t.br.q = s.br.q ∨
    (∃ p es, s.br.evtQ = .wirelessRx p :: es ∧ s.br.q.length < s.cfg.queueCap ∧ t.br.q = s.br.q ++ [pad128 p] ∧
      t.br.bTx = s.br.bTx) ∨
    (∃ e, s.br.pSt = .wait ∧ s.br.q = e :: t.br.q ∧ t.br.bTx = e)

/-- R206, R210, R332: a block reaches the controller only in an exchange step, under ready, and then whole in both
directions. -/
def Obligations.BlocksMoveOnlyUnderReady : Prop :=
  ∀ s t : State, s.ct.cSt = .poll → step s = .next t → t.ct.cSt = .decode →
    s.br.ready = true ∧ s.br.pSt = .ready ∧ (∃ p, nextStim s = .run .exchange p ∧ p.xferOk = true) ∧
    t.ct.cRx = s.br.bTx ∧ t.br.bRx = s.ct.cTx

/-- R71, R262, R263, R267: a latched trigger survives every step but the main loop's own consumption of it, which remembers
it, and a reset of the bridge. A remembered trigger stays remembered, whatever other agents do, until the main loop's override
step makes `b_tx` the brake block; and that block stays until it is prepared. How the main loop remembers it between its steps
is notes/assumptions/4.md. -/
def Obligations.LatchedTriggersAreNeverLost : Prop :=
  ∀ s t : State, step s = .next t → nextStim s ≠ .resetBridge →
    (s.br.discTrig = true → t.br.discTrig = true ∨ (s.br.bmlPc = .takeDisc ∧ t.br.bmlPc = .takeOvf true)) ∧
    (s.br.ovfTrig = true → t.br.ovfTrig = true ∨
      ∃ d, s.br.bmlPc = .takeOvf d ∧ t.br.bmlPc = .override d true) ∧
    (s.br.bmlPc = .takeOvf true → t.br.bmlPc = .takeOvf true ∨ ∃ o, t.br.bmlPc = .override true o) ∧
    (∀ d o, s.br.bmlPc = .override d o → d = true ∨ o = true →
      t.br.bmlPc = .override d o ∨ (t.br.bmlPc = .prepDone ∧ t.br.bTx = brakeBlock s.cfg)) ∧
    (s.br.bmlPc = .prepDone → t.br.bTx = s.br.bTx ∧
      (t.br.bmlPc = .prepDone ∨ (t.br.bmlPc = .idle ∧ t.br.pSt = .prepared)))

/-- R246: while a backoff window is open no step starts or attempts a send, or puts out a notification, and the window stays;
only a reset of the bridge ends it early. -/
def Obligations.NoSendDuringBackoff : Prop :=
  ∀ (s t : State) (tb : Nat), s.Inv → step s = .next t → nextStim s ≠ .resetBridge →
    s.br.backoffDeadline = some tb → t.env.now < tb →
    t.br.backoffDeadline = some tb ∧ t.br.lastSend = s.br.lastSend ∧ (∀ d1 d2 aux, t.br.bmlPc ≠ .send d1 d2 aux) ∧
    ∃ l, t.trace = s.trace ++ l ∧ ∀ o ∈ l, o.isSend = false

/-- R43, R182, R322: a channel's last command changes only in a step of the controller that dispatches a frame commanding it,
oldest in flight or just decoded, and the command is put out last; or by a reset of the controller. That one frame is
dispatched a step, the first just decoded or the oldest in flight, and that its output is the step's last, are
notes/assumptions/5.md. -/
def Obligations.OnlyDispatchedFramesMoveActuators : Prop :=
  ∀ (s t : State) (ch : Channel), step s = .next t → nextStim s ≠ .resetController →
    t.ct.actLast ch = s.ct.actLast ch ∨
    ∃ (a : Agent) (p : Pins) (i : Instr) (cmd : Cmd) (l : List Output),
      nextStim s = .run a p ∧ (a = .cml ∨ a = .uart) ∧
      dispatched a (latch p (takeStim s)) = some i ∧ commandOf i = some (ch, cmd) ∧
      t.ct.actLast ch = some cmd ∧ t.trace = s.trace ++ l ++ [.act ch cmd (ActParam.get s.cfg.actParam ch cmd)]
end

