-- ==== Sys2Proof/Laws/Decode.lean ====
section
/-! SUPPORT. The decoder and the encoder: lengths, the lookup, what one decode step can be, and `run` as a recursion
without fuel. -/

namespace Sys2Proof

/-! ## Byte sequences -/

@[simp] theorem length_zeros (n : Nat) : (zeros n).length = n := List.length_replicate

@[simp] theorem length_pad128 (s : List Byte) : (pad128 s).length = blockSize := by
  simp [pad128, blockSize]

theorem pad128_of_le (s : List Byte) (h : s.length ≤ blockSize) : pad128 s = s ++ zeros (blockSize - s.length) := by
  simp [pad128, List.take_append, zeros, List.take_of_length_le h]

@[simp] theorem sum8_nil : sum8 [] = 0 := rfl

@[simp] theorem sum8_cons (b : Byte) (t : List Byte) : sum8 (b :: t) = b + sum8 t := rfl

theorem sum8_append (s t : List Byte) : sum8 (s ++ t) = sum8 s + sum8 t := by
  induction s with
  | nil => simp
  | cons b s ih => simp [ih, BitVec.add_assoc]

@[simp] theorem length_beBytes (n v : Nat) : (beBytes n v).length = n := by
  induction n with
  | zero => rfl
  | succ n ih => simp [beBytes, ih]

@[simp] theorem length_frameBytes (id : Byte) (p : List Byte) : (frameBytes id p).length = p.length + 3 := by
  simp [frameBytes]

@[simp] theorem length_brakeBlock (c : Config) : (brakeBlock c).length = blockSize := length_pad128 _

/-! ## The Command Model -/

/-- A known identifier's kind gives a decodable frame with that identifier. -/
theorem lookup_instr (c : Config) (id : Byte) (k : Kind) (p : List Byte) (h : c.lookup id = some k) :
    (k.instr p).decodable = true ∧ (k.instr p).id c = id := by
  unfold Config.lookup at h
  split_ifs at h with h1 h2 h3 h4 h5 h6 h7 h8 <;> (obtain rfl := Option.some.inj h; exact ⟨rfl, by simp [Kind.instr, Instr.id, *]⟩)

/-- The payload of a kind's frame is the payload read, if it has the kind's length. -/
theorem payload_instr (k : Kind) (p : List Byte) (h : p.length = k.plen) : (k.instr p).payload = p := by
  cases k <;> simp only [Kind.plen] at h <;>
    first
      | (simp only [Kind.instr, Instr.payload]; exact (List.eq_nil_of_length_eq_zero h).symm)
      | (obtain ⟨a, b, rfl⟩ := List.length_eq_two.mp h; rfl)

/-- The identifiers that are not found are those outside the closed set. -/
theorem lookup_eq_none (c : Config) (id : Byte) : c.lookup id = none ↔ id ∉ c.ids := by
  unfold Config.lookup Config.ids
  split_ifs <;> simp_all

/-- With distinct identifiers, every decodable form is found under its identifier. -/
theorem lookup_id (c : Config) (i : Instr) (hc : c.idsDistinct = true) (hi : i.decodable = true) :
    ∃ k, c.lookup (i.id c) = some k ∧ k.plen = i.payload.length ∧ k.instr i.payload = i := by
  simp only [Config.idsDistinct, Config.ids, decide_eq_true_eq, List.nodup_cons, List.mem_cons, not_or,
    List.not_mem_nil, not_false_eq_true, and_true, List.nodup_nil] at hc
  obtain ⟨⟨a1, a2, a3, a4, a5, a6, a7⟩, ⟨b1, b2, b3, b4, b5, b6⟩, ⟨c1, c2, c3, c4, c5⟩, ⟨d1, d2, d3, d4⟩, ⟨e1, e2, e3⟩,
    ⟨f1, f2⟩, g1⟩ := hc
  cases i with
  | ping => exact ⟨.ping, by simp [Config.lookup, Instr.id], rfl, rfl⟩
  | liftExtend => exact ⟨.liftExtend, by simp [Config.lookup, Instr.id, Ne.symm a1], rfl, rfl⟩
  | liftRetract => exact ⟨.liftRetract, by simp [Config.lookup, Instr.id, Ne.symm a2, Ne.symm b1], rfl, rfl⟩
  | liftBrake => exact ⟨.liftBrake, by simp [Config.lookup, Instr.id, Ne.symm a3, Ne.symm b2, Ne.symm c1], rfl, rfl⟩
  | tiltExtend =>
    exact ⟨.tiltExtend, by simp [Config.lookup, Instr.id, Ne.symm a4, Ne.symm b3, Ne.symm c2, Ne.symm d1], rfl, rfl⟩
  | tiltRetract =>
    exact ⟨.tiltRetract,
      by simp [Config.lookup, Instr.id, Ne.symm a5, Ne.symm b4, Ne.symm c3, Ne.symm d2, Ne.symm e1], rfl, rfl⟩
  | tiltBrake =>
    exact ⟨.tiltBrake,
      by simp [Config.lookup, Instr.id, Ne.symm a6, Ne.symm b5, Ne.symm c4, Ne.symm d3, Ne.symm e2, Ne.symm f1], rfl, rfl⟩
  | telem x y =>
    exact ⟨.telemetry,
      by simp [Config.lookup, Instr.id, Ne.symm a7, Ne.symm b6, Ne.symm c5, Ne.symm d4, Ne.symm e3, Ne.symm f2,
        Ne.symm g1], rfl, rfl⟩
  | telemNotify x y z => exact absurd hi (by simp [Instr.decodable])

theorem plen_le (k : Kind) : k.plen ≤ 2 := by cases k <;> simp [Kind.plen]

/-! ## One decode step -/

/-- Everything a decode step can be, with the bytes it saw. -/
theorem decodeStep_cases (c : Config) (bs : List Byte) :
    (bs = [] ∧ decodeStep c bs = .needMore) ∨
    (∃ b t, bs = b :: t ∧ b ≠ sync ∧ decodeStep c bs = .skipped b) ∨
    (bs = [sync] ∧ decodeStep c bs = .needMore) ∨
    (∃ id r, bs = sync :: id :: r ∧ c.lookup id = none ∧ decodeStep c bs = .unknownId id) ∨
    (∃ id r k, bs = sync :: id :: r ∧ c.lookup id = some k ∧ r.length < k.plen + 1 ∧ decodeStep c bs = .needMore) ∨
    (∃ id r k, bs = sync :: id :: r ∧ c.lookup id = some k ∧ k.plen + 1 ≤ r.length ∧
      decodeStep c bs = .badChecksum id) ∨
    (∃ id r k, bs = sync :: id :: r ∧ c.lookup id = some k ∧ k.plen + 1 ≤ r.length ∧
      decodeStep c bs = .frame (k.instr (r.take k.plen))) := by
  match bs with
  | [] => simp [decodeStep]
  | b :: t =>
    by_cases hb : b = sync
    · subst hb
      match t with
      | [] => simp [decodeStep]
      | id :: r =>
        cases hk : c.lookup id with
        | none => simp [decodeStep, hk]
        | some k =>
          by_cases hl : r.length < k.plen + 1
          · exact .inr (.inr (.inr (.inr (.inl ⟨id, r, k, rfl, hk, hl, by simp [decodeStep, hk, hl]⟩))))
          · by_cases hs : r.getD k.plen 0 = sum8 (id :: r.take k.plen) <;>
              simp_all [decodeStep]
    · simp [decodeStep, hb]

/-- Every step but a wait removes at least a byte and no more than there are (R161). -/
theorem consumed_bounds (c : Config) (bs : List Byte) (h : decodeStep c bs ≠ .needMore) :
    1 ≤ (decodeStep c bs).consumed ∧ (decodeStep c bs).consumed ≤ bs.length := by
  obtain ⟨-, e⟩ | ⟨b, t, rfl, -, e⟩ | ⟨-, e⟩ | ⟨id, r, rfl, -, e⟩ | ⟨id, r, k, -, -, -, e⟩ |
    ⟨id, r, k, rfl, -, -, e⟩ | ⟨id, r, k, rfl, -, hl, e⟩ := decodeStep_cases c bs
  · exact absurd e h
  · simp [e, DecStep.consumed]
  · exact absurd e h
  · simp [e, DecStep.consumed]
  · exact absurd e h
  · simp [e, DecStep.consumed]
  · rw [e]
    have hp : (r.take k.plen).length = k.plen := by simp; omega
    simp only [DecStep.consumed, payload_instr k _ hp, hp, frameOverhead, List.length_cons]
    omega

/-- A decision is not changed by bytes that arrive later (R162). -/
theorem decodeStep_append (c : Config) (bs more : List Byte) (h : decodeStep c bs ≠ .needMore) :
    decodeStep c (bs ++ more) = decodeStep c bs := by
  match bs with
  | [] => exact absurd rfl h
  | b :: t =>
    by_cases hb : b = sync
    · subst hb
      match t with
      | [] => exact absurd rfl h
      | id :: r =>
        cases hk : c.lookup id with
        | none => simp [decodeStep, hk]
        | some k =>
          by_cases hl : r.length < k.plen + 1
          · exact absurd (by simp [decodeStep, hk, hl]) h
          · have h1 : ¬ (r ++ more).length < k.plen + 1 := by simp; omega
            have h2 : (r ++ more).getD k.plen 0 = r.getD k.plen 0 := by
              simp [List.getD, List.getElem?_append_left (show k.plen < r.length by omega)]
            have h3 : (r ++ more).take k.plen = r.take k.plen := List.take_append_of_le_length (by omega)
            simp only [List.cons_append, decodeStep, hk, h1, hl, h2, h3]
    · simp [decodeStep, hb]

/-- A frame the decoder returns is one of the eight kinds (R104). -/
theorem frame_decodable (c : Config) (bs : List Byte) (i : Instr) (h : decodeStep c bs = .frame i) :
    i.decodable = true := by
  obtain ⟨-, e⟩ | ⟨b, t, -, -, e⟩ | ⟨-, e⟩ | ⟨id, r, -, -, e⟩ | ⟨id, r, k, -, -, -, e⟩ |
    ⟨id, r, k, -, -, -, e⟩ | ⟨id, r, k, -, hk, -, e⟩ := decodeStep_cases c bs <;> rw [e] at h
  all_goals try exact DecStep.noConfusion h
  obtain rfl := DecStep.frame.inj h
  exact (lookup_instr c id k _ hk).1

/-- A quiescent buffer is empty or begins with SYNC, and has at most 4 bytes (R40, R161). -/
theorem quiet_shape (c : Config) (bs : List Byte) (h : decodeStep c bs = .needMore) :
    bs.length ≤ 4 ∧ (bs = [] ∨ ∃ t, bs = sync :: t) := by
  obtain ⟨rfl, -⟩ | ⟨b, t, -, -, e⟩ | ⟨rfl, -⟩ | ⟨id, r, -, -, e⟩ | ⟨id, r, k, rfl, -, hl, -⟩ |
    ⟨id, r, k, -, -, -, e⟩ | ⟨id, r, k, -, -, -, e⟩ := decodeStep_cases c bs
  · simp
  · exact absurd (e.symm.trans h) (by simp)
  · simp
  · exact absurd (e.symm.trans h) (by simp)
  · have := plen_le k
    simp only [List.length_cons]
    exact ⟨by omega, .inr ⟨_, rfl⟩⟩
  · exact absurd (e.symm.trans h) (by simp)
  · exact absurd (e.symm.trans h) (by simp)

/-! ## run -/

/-- More fuel than bytes changes nothing. -/
theorem runSteps_fuel (c : Config) (m n : Nat) (bs : List Byte) (hm : bs.length ≤ m) (hn : bs.length ≤ n) :
    runSteps c m bs = runSteps c n bs := by
  induction m generalizing n bs with
  | zero =>
    obtain rfl : bs = [] := by simpa using hm
    cases n <;> simp [runSteps, decodeStep]
  | succ m ih =>
    cases n with
    | zero =>
      obtain rfl : bs = [] := by simpa using hn
      simp [runSteps, decodeStep]
    | succ n =>
      have key : decodeStep c bs ≠ .needMore →
          runSteps c m (bs.drop (decodeStep c bs).consumed) = runSteps c n (bs.drop (decodeStep c bs).consumed) := by
        intro h
        have hb := consumed_bounds c bs h
        exact ih n _ (by simp; omega) (by simp; omega)
      cases e : decodeStep c bs with
      | needMore => simp [runSteps, e]
      | _ => rw [e] at key; simp [runSteps, e, key (by simp)]

/-- `run` of a quiescent buffer does nothing. -/
theorem run_quiet (c : Config) (bs : List Byte) (h : decodeStep c bs = .needMore) : run c bs = ⟨[], bs⟩ := by
  unfold run
  cases bs with
  | nil => rfl
  | cons b t => simp [runSteps, h]

/-- `run` of any other buffer makes one step and goes on (R160). -/
theorem run_step (c : Config) (bs : List Byte) (h : decodeStep c bs ≠ .needMore) :
    run c bs = ⟨decodeStep c bs :: (run c (bs.drop (decodeStep c bs).consumed)).outs,
      (run c (bs.drop (decodeStep c bs).consumed)).pend⟩ := by
  have hb := consumed_bounds c bs h
  obtain ⟨n, hn⟩ : ∃ n, bs.length = n + 1 := ⟨bs.length - 1, by omega⟩
  have hf := runSteps_fuel c n (bs.drop (decodeStep c bs).consumed).length (bs.drop (decodeStep c bs).consumed)
    (by simp; omega) le_rfl
  unfold run
  rw [hn, ← hf]
  cases e : decodeStep c bs with
  | needMore => exact absurd e h
  | _ => simp [runSteps, e]

/-- Induction along the steps of `run`: a quiescent buffer, and a buffer whose next step leads to a shorter one. -/
theorem run_induction (c : Config) (P : List Byte → Prop)
    (quiet : ∀ bs, decodeStep c bs = .needMore → P bs)
    (move : ∀ bs, decodeStep c bs ≠ .needMore → P (bs.drop (decodeStep c bs).consumed) → P bs) (bs : List Byte) : P bs := by
  induction hn : bs.length using Nat.strong_induction_on generalizing bs with
  | _ n ih =>
    by_cases h : decodeStep c bs = .needMore
    · exact quiet bs h
    · have hb := consumed_bounds c bs h
      exact move bs h (ih _ (by simp; omega) _ rfl)

/-- The frames of a run are frames of the eight kinds. -/
theorem run_frames_decodable (c : Config) (bs : List Byte) : ∀ i ∈ (run c bs).frames, i.decodable = true := by
  refine run_induction c (fun bs => ∀ i ∈ (run c bs).frames, i.decodable = true) ?_ ?_ bs
  · intro bs h
    simp [run_quiet c bs h, DecRun.frames]
  · intro bs h ih i hi
    rw [run_step c bs h, DecRun.frames, List.filterMap_cons] at hi
    cases e : decodeStep c bs with
    | frame j =>
      rw [e] at hi ih
      simp only [DecStep.frame?, List.mem_cons] at hi
      rcases hi with rfl | hi
      · exact frame_decodable c bs _ e
      · exact ih i hi
    | _ => rw [e] at hi ih; exact ih i hi

/-- What `run` leaves is quiescent. -/
theorem run_pend_quiet (c : Config) (bs : List Byte) : decodeStep c (run c bs).pend = .needMore := by
  refine run_induction c (fun bs => decodeStep c (run c bs).pend = .needMore) ?_ ?_ bs
  · intro bs h; simpa [run_quiet c bs h] using h
  · intro bs h ih; simpa [run_step c bs h] using ih

end Sys2Proof

namespace Sys2Proof.Machine

@[simp] theorem length_auxBytes (ws as : List Nat) : (auxBytes ws as).length = ws.sum := by
  induction ws generalizing as with
  | nil => rfl
  | cons w ws ih => simp [auxBytes, ih]

@[simp] theorem runLog_nil : runLog [] = [] := rfl

end Sys2Proof.Machine
end

