-- ==== Sys2Proof/Laws/State.lean ====
section
/-! SUPPORT. What each named update of the state leaves as it was: one lemma per field per update. -/

namespace Sys2Proof.Machine

@[simp] theorem emits_cfg (s : State) (os : List Output) : (s.emits os).cfg = s.cfg := rfl
@[simp] theorem emits_br (s : State) (os : List Output) : (s.emits os).br = s.br := rfl
@[simp] theorem emits_ct (s : State) (os : List Output) : (s.emits os).ct = s.ct := rfl
@[simp] theorem emits_env (s : State) (os : List Output) : (s.emits os).env = s.env := rfl
@[simp] theorem emits_trace (s : State) (os : List Output) : (s.emits os).trace = s.trace ++ os := rfl

@[simp] theorem emit_cfg (s : State) (o : Output) : (s.emit o).cfg = s.cfg := rfl
@[simp] theorem emit_br (s : State) (o : Output) : (s.emit o).br = s.br := rfl
@[simp] theorem emit_ct (s : State) (o : Output) : (s.emit o).ct = s.ct := rfl
@[simp] theorem emit_env (s : State) (o : Output) : (s.emit o).env = s.env := rfl
@[simp] theorem emit_trace (s : State) (o : Output) : (s.emit o).trace = s.trace ++ [o] := rfl

@[simp] theorem raise_cfg (s : State) (d : Device) (e : Err) : (s.raise d e).cfg = s.cfg := rfl
@[simp] theorem raise_br (s : State) (d : Device) (e : Err) : (s.raise d e).br = s.br := rfl
@[simp] theorem raise_ct (s : State) (d : Device) (e : Err) : (s.raise d e).ct = s.ct := rfl
@[simp] theorem raise_env (s : State) (d : Device) (e : Err) : (s.raise d e).env = s.env := rfl
@[simp] theorem raise_trace (s : State) (d : Device) (e : Err) : (s.raise d e).trace = s.trace ++ [.log d e] := rfl

@[simp] theorem goto_cfg (s : State) (pc : BmlPc) : (s.goto pc).cfg = s.cfg := rfl
@[simp] theorem goto_ct (s : State) (pc : BmlPc) : (s.goto pc).ct = s.ct := rfl
@[simp] theorem goto_env (s : State) (pc : BmlPc) : (s.goto pc).env = s.env := rfl
@[simp] theorem goto_trace (s : State) (pc : BmlPc) : (s.goto pc).trace = s.trace := rfl
@[simp] theorem goto_br_q (s : State) (pc : BmlPc) : (s.goto pc).br.q = s.br.q := rfl
@[simp] theorem goto_br_ovfTrig (s : State) (pc : BmlPc) : (s.goto pc).br.ovfTrig = s.br.ovfTrig := rfl
@[simp] theorem goto_br_discTrig (s : State) (pc : BmlPc) : (s.goto pc).br.discTrig = s.br.discTrig := rfl
@[simp] theorem goto_br_link (s : State) (pc : BmlPc) : (s.goto pc).br.link = s.br.link := rfl
@[simp] theorem goto_br_conn (s : State) (pc : BmlPc) : (s.goto pc).br.conn = s.br.conn := rfl
@[simp] theorem goto_br_lastSend (s : State) (pc : BmlPc) : (s.goto pc).br.lastSend = s.br.lastSend := rfl
@[simp] theorem goto_br_backoffDeadline (s : State) (pc : BmlPc) : (s.goto pc).br.backoffDeadline = s.br.backoffDeadline := rfl
@[simp] theorem goto_br_pSt (s : State) (pc : BmlPc) : (s.goto pc).br.pSt = s.br.pSt := rfl
@[simp] theorem goto_br_bTx (s : State) (pc : BmlPc) : (s.goto pc).br.bTx = s.br.bTx := rfl
@[simp] theorem goto_br_bRx (s : State) (pc : BmlPc) : (s.goto pc).br.bRx = s.br.bRx := rfl
@[simp] theorem goto_br_ready (s : State) (pc : BmlPc) : (s.goto pc).br.ready = s.br.ready := rfl
@[simp] theorem goto_br_waitT0 (s : State) (pc : BmlPc) : (s.goto pc).br.waitT0 = s.br.waitT0 := rfl
@[simp] theorem goto_br_xferT0 (s : State) (pc : BmlPc) : (s.goto pc).br.xferT0 = s.br.xferT0 := rfl
@[simp] theorem goto_br_xferOk (s : State) (pc : BmlPc) : (s.goto pc).br.xferOk = s.br.xferOk := rfl
@[simp] theorem goto_br_enc (s : State) (pc : BmlPc) : (s.goto pc).br.enc = s.br.enc := rfl
@[simp] theorem goto_br_evtQ (s : State) (pc : BmlPc) : (s.goto pc).br.evtQ = s.br.evtQ := rfl
@[simp] theorem goto_br_evtPc (s : State) (pc : BmlPc) : (s.goto pc).br.evtPc = s.br.evtPc := rfl
@[simp] theorem goto_br_bmlPc (s : State) (pc : BmlPc) : (s.goto pc).br.bmlPc = pc := rfl

@[simp] theorem enqueue_cfg (s : State) (p : List Byte) : (s.enqueue p).cfg = s.cfg := rfl
@[simp] theorem enqueue_ct (s : State) (p : List Byte) : (s.enqueue p).ct = s.ct := rfl
@[simp] theorem enqueue_env (s : State) (p : List Byte) : (s.enqueue p).env = s.env := rfl
@[simp] theorem enqueue_trace (s : State) (p : List Byte) : (s.enqueue p).trace = s.trace := rfl
@[simp] theorem enqueue_br_q (s : State) (p : List Byte) : (s.enqueue p).br.q = s.br.q ++ [pad128 p] := rfl
@[simp] theorem enqueue_br_ovfTrig (s : State) (p : List Byte) : (s.enqueue p).br.ovfTrig = s.br.ovfTrig := rfl
@[simp] theorem enqueue_br_discTrig (s : State) (p : List Byte) : (s.enqueue p).br.discTrig = s.br.discTrig := rfl
@[simp] theorem enqueue_br_link (s : State) (p : List Byte) : (s.enqueue p).br.link = s.br.link := rfl
@[simp] theorem enqueue_br_conn (s : State) (p : List Byte) : (s.enqueue p).br.conn = s.br.conn := rfl
@[simp] theorem enqueue_br_lastSend (s : State) (p : List Byte) : (s.enqueue p).br.lastSend = s.br.lastSend := rfl
@[simp] theorem enqueue_br_backoffDeadline (s : State) (p : List Byte) : (s.enqueue p).br.backoffDeadline = s.br.backoffDeadline := rfl
@[simp] theorem enqueue_br_pSt (s : State) (p : List Byte) : (s.enqueue p).br.pSt = s.br.pSt := rfl
@[simp] theorem enqueue_br_bTx (s : State) (p : List Byte) : (s.enqueue p).br.bTx = s.br.bTx := rfl
@[simp] theorem enqueue_br_bRx (s : State) (p : List Byte) : (s.enqueue p).br.bRx = s.br.bRx := rfl
@[simp] theorem enqueue_br_ready (s : State) (p : List Byte) : (s.enqueue p).br.ready = s.br.ready := rfl
@[simp] theorem enqueue_br_waitT0 (s : State) (p : List Byte) : (s.enqueue p).br.waitT0 = s.br.waitT0 := rfl
@[simp] theorem enqueue_br_xferT0 (s : State) (p : List Byte) : (s.enqueue p).br.xferT0 = s.br.xferT0 := rfl
@[simp] theorem enqueue_br_xferOk (s : State) (p : List Byte) : (s.enqueue p).br.xferOk = s.br.xferOk := rfl
@[simp] theorem enqueue_br_enc (s : State) (p : List Byte) : (s.enqueue p).br.enc = s.br.enc := rfl
@[simp] theorem enqueue_br_evtQ (s : State) (p : List Byte) : (s.enqueue p).br.evtQ = s.br.evtQ := rfl
@[simp] theorem enqueue_br_evtPc (s : State) (p : List Byte) : (s.enqueue p).br.evtPc = s.br.evtPc := rfl
@[simp] theorem enqueue_br_bmlPc (s : State) (p : List Byte) : (s.enqueue p).br.bmlPc = s.br.bmlPc := rfl

@[simp] theorem finishCycle_cfg (s : State) : (finishCycle s).cfg = s.cfg := rfl
@[simp] theorem finishCycle_ct (s : State) : (finishCycle s).ct = s.ct := rfl
@[simp] theorem finishCycle_env (s : State) : (finishCycle s).env = s.env := rfl
@[simp] theorem finishCycle_trace (s : State) : (finishCycle s).trace = s.trace := rfl
@[simp] theorem finishCycle_br_q (s : State) : (finishCycle s).br.q = s.br.q := rfl
@[simp] theorem finishCycle_br_ovfTrig (s : State) : (finishCycle s).br.ovfTrig = s.br.ovfTrig := rfl
@[simp] theorem finishCycle_br_discTrig (s : State) : (finishCycle s).br.discTrig = s.br.discTrig := rfl
@[simp] theorem finishCycle_br_link (s : State) : (finishCycle s).br.link = s.br.link := rfl
@[simp] theorem finishCycle_br_conn (s : State) : (finishCycle s).br.conn = s.br.conn := rfl
@[simp] theorem finishCycle_br_lastSend (s : State) : (finishCycle s).br.lastSend = s.br.lastSend := rfl
@[simp] theorem finishCycle_br_backoffDeadline (s : State) : (finishCycle s).br.backoffDeadline = s.br.backoffDeadline := rfl
@[simp] theorem finishCycle_br_pSt (s : State) : (finishCycle s).br.pSt = .wait := rfl
@[simp] theorem finishCycle_br_bTx (s : State) : (finishCycle s).br.bTx = s.br.bTx := rfl
@[simp] theorem finishCycle_br_bRx (s : State) : (finishCycle s).br.bRx = s.br.bRx := rfl
@[simp] theorem finishCycle_br_ready (s : State) : (finishCycle s).br.ready = s.br.ready := rfl
@[simp] theorem finishCycle_br_waitT0 (s : State) : (finishCycle s).br.waitT0 = s.env.now := rfl
@[simp] theorem finishCycle_br_xferT0 (s : State) : (finishCycle s).br.xferT0 = s.br.xferT0 := rfl
@[simp] theorem finishCycle_br_xferOk (s : State) : (finishCycle s).br.xferOk = false := rfl
@[simp] theorem finishCycle_br_enc (s : State) : (finishCycle s).br.enc = s.br.enc := rfl
@[simp] theorem finishCycle_br_evtQ (s : State) : (finishCycle s).br.evtQ = s.br.evtQ := rfl
@[simp] theorem finishCycle_br_evtPc (s : State) : (finishCycle s).br.evtPc = s.br.evtPc := rfl
@[simp] theorem finishCycle_br_bmlPc (s : State) : (finishCycle s).br.bmlPc = .idle := rfl

@[simp] theorem assertReady_cfg (s : State) : (assertReady s).cfg = s.cfg := rfl
@[simp] theorem assertReady_ct (s : State) : (assertReady s).ct = s.ct := rfl
@[simp] theorem assertReady_env (s : State) : (assertReady s).env = s.env := rfl
@[simp] theorem assertReady_trace (s : State) : (assertReady s).trace = s.trace := rfl
@[simp] theorem assertReady_br_q (s : State) : (assertReady s).br.q = s.br.q := rfl
@[simp] theorem assertReady_br_ovfTrig (s : State) : (assertReady s).br.ovfTrig = s.br.ovfTrig := rfl
@[simp] theorem assertReady_br_discTrig (s : State) : (assertReady s).br.discTrig = s.br.discTrig := rfl
@[simp] theorem assertReady_br_link (s : State) : (assertReady s).br.link = s.br.link := rfl
@[simp] theorem assertReady_br_conn (s : State) : (assertReady s).br.conn = s.br.conn := rfl
@[simp] theorem assertReady_br_lastSend (s : State) : (assertReady s).br.lastSend = s.br.lastSend := rfl
@[simp] theorem assertReady_br_backoffDeadline (s : State) : (assertReady s).br.backoffDeadline = s.br.backoffDeadline := rfl
@[simp] theorem assertReady_br_pSt (s : State) : (assertReady s).br.pSt = .ready := rfl
@[simp] theorem assertReady_br_bTx (s : State) : (assertReady s).br.bTx = s.br.bTx := rfl
@[simp] theorem assertReady_br_bRx (s : State) : (assertReady s).br.bRx = s.br.bRx := rfl
@[simp] theorem assertReady_br_ready (s : State) : (assertReady s).br.ready = true := rfl
@[simp] theorem assertReady_br_waitT0 (s : State) : (assertReady s).br.waitT0 = s.br.waitT0 := rfl
@[simp] theorem assertReady_br_xferT0 (s : State) : (assertReady s).br.xferT0 = s.env.now := rfl
@[simp] theorem assertReady_br_xferOk (s : State) : (assertReady s).br.xferOk = s.br.xferOk := rfl
@[simp] theorem assertReady_br_enc (s : State) : (assertReady s).br.enc = s.br.enc := rfl
@[simp] theorem assertReady_br_evtQ (s : State) : (assertReady s).br.evtQ = s.br.evtQ := rfl
@[simp] theorem assertReady_br_evtPc (s : State) : (assertReady s).br.evtPc = s.br.evtPc := rfl
@[simp] theorem assertReady_br_bmlPc (s : State) : (assertReady s).br.bmlPc = s.br.bmlPc := rfl

@[simp] theorem latchOverflow_cfg (s : State) : (latchOverflow s).cfg = s.cfg := rfl
@[simp] theorem latchOverflow_ct (s : State) : (latchOverflow s).ct = s.ct := rfl
@[simp] theorem latchOverflow_env (s : State) : (latchOverflow s).env = s.env := rfl
@[simp] theorem latchOverflow_br_q (s : State) : (latchOverflow s).br.q = s.br.q := rfl
@[simp] theorem latchOverflow_br_ovfTrig (s : State) : (latchOverflow s).br.ovfTrig = true := rfl
@[simp] theorem latchOverflow_br_discTrig (s : State) : (latchOverflow s).br.discTrig = s.br.discTrig := rfl
@[simp] theorem latchOverflow_br_link (s : State) : (latchOverflow s).br.link = s.br.link := rfl
@[simp] theorem latchOverflow_br_conn (s : State) : (latchOverflow s).br.conn = s.br.conn := rfl
@[simp] theorem latchOverflow_br_lastSend (s : State) : (latchOverflow s).br.lastSend = s.br.lastSend := rfl
@[simp] theorem latchOverflow_br_backoffDeadline (s : State) : (latchOverflow s).br.backoffDeadline = s.br.backoffDeadline := rfl
@[simp] theorem latchOverflow_br_pSt (s : State) : (latchOverflow s).br.pSt = s.br.pSt := rfl
@[simp] theorem latchOverflow_br_bTx (s : State) : (latchOverflow s).br.bTx = s.br.bTx := rfl
@[simp] theorem latchOverflow_br_bRx (s : State) : (latchOverflow s).br.bRx = s.br.bRx := rfl
@[simp] theorem latchOverflow_br_ready (s : State) : (latchOverflow s).br.ready = s.br.ready := rfl
@[simp] theorem latchOverflow_br_waitT0 (s : State) : (latchOverflow s).br.waitT0 = s.br.waitT0 := rfl
@[simp] theorem latchOverflow_br_xferT0 (s : State) : (latchOverflow s).br.xferT0 = s.br.xferT0 := rfl
@[simp] theorem latchOverflow_br_xferOk (s : State) : (latchOverflow s).br.xferOk = s.br.xferOk := rfl
@[simp] theorem latchOverflow_br_enc (s : State) : (latchOverflow s).br.enc = s.br.enc := rfl
@[simp] theorem latchOverflow_br_evtQ (s : State) : (latchOverflow s).br.evtQ = s.br.evtQ := rfl
@[simp] theorem latchOverflow_br_evtPc (s : State) : (latchOverflow s).br.evtPc = s.br.evtPc := rfl
@[simp] theorem latchOverflow_br_bmlPc (s : State) : (latchOverflow s).br.bmlPc = s.br.bmlPc := rfl

@[simp] theorem latchOverflow_trace (s : State) : (latchOverflow s).trace = s.trace ++ [.log .bridge .queueFull] := rfl

@[simp] theorem syncEdge_cfg (s : State) : (syncEdge s).cfg = s.cfg := rfl
@[simp] theorem syncEdge_br (s : State) : (syncEdge s).br = s.br := rfl
@[simp] theorem syncEdge_env (s : State) : (syncEdge s).env = s.env := rfl
@[simp] theorem syncEdge_trace (s : State) : (syncEdge s).trace = s.trace := rfl
@[simp] theorem syncEdge_ct_cTx (s : State) : (syncEdge s).ct.cTx = s.ct.cTx := rfl
@[simp] theorem syncEdge_ct_cRx (s : State) : (syncEdge s).ct.cRx = s.ct.cRx := rfl
@[simp] theorem syncEdge_ct_cSt (s : State) : (syncEdge s).ct.cSt = s.ct.cSt := rfl
@[simp] theorem syncEdge_ct_rdyMeta (s : State) : (syncEdge s).ct.rdyMeta = s.br.ready := rfl
@[simp] theorem syncEdge_ct_rdySync (s : State) : (syncEdge s).ct.rdySync = s.ct.rdyMeta := rfl
@[simp] theorem syncEdge_ct_decBlk (s : State) : (syncEdge s).ct.decBlk = s.ct.decBlk := rfl
@[simp] theorem syncEdge_ct_decUart (s : State) : (syncEdge s).ct.decUart = s.ct.decUart := rfl
@[simp] theorem syncEdge_ct_actLift (s : State) : (syncEdge s).ct.actLift = s.ct.actLift := rfl
@[simp] theorem syncEdge_ct_actTilt (s : State) : (syncEdge s).ct.actTilt = s.ct.actTilt := rfl
@[simp] theorem syncEdge_ct_enc (s : State) : (syncEdge s).ct.enc = s.ct.enc := rfl
@[simp] theorem syncEdge_ct_composed (s : State) : (syncEdge s).ct.composed = s.ct.composed := rfl
@[simp] theorem syncEdge_ct_inflight (s : State) : (syncEdge s).ct.inflight = s.ct.inflight := rfl
@[simp] theorem syncEdge_ct_serBlk (s : State) : (syncEdge s).ct.serBlk = s.ct.serBlk := rfl
@[simp] theorem syncEdge_ct_serUart (s : State) : (syncEdge s).ct.serUart = s.ct.serUart := rfl

/-! Channels -/

@[simp] theorem setActLast_same (c : Controller) (cmd : Cmd) (ch : Channel) :
    (c.setActLast cmd ch).actLast ch = some cmd := by cases ch <;> rfl

@[simp] theorem setActLast_other (c : Controller) (cmd : Cmd) (ch ch' : Channel) (h : ch' ≠ ch) :
    (c.setActLast cmd ch).actLast ch' = c.actLast ch' := by cases ch <;> cases ch' <;> first | rfl | exact absurd rfl h

@[simp] theorem setActLast_cTx (c : Controller) (cmd : Cmd) (ch : Channel) : (c.setActLast cmd ch).cTx = c.cTx := by cases ch <;> rfl
@[simp] theorem setActLast_cRx (c : Controller) (cmd : Cmd) (ch : Channel) : (c.setActLast cmd ch).cRx = c.cRx := by cases ch <;> rfl
@[simp] theorem setActLast_cSt (c : Controller) (cmd : Cmd) (ch : Channel) : (c.setActLast cmd ch).cSt = c.cSt := by cases ch <;> rfl
@[simp] theorem setActLast_rdyMeta (c : Controller) (cmd : Cmd) (ch : Channel) : (c.setActLast cmd ch).rdyMeta = c.rdyMeta := by cases ch <;> rfl
@[simp] theorem setActLast_rdySync (c : Controller) (cmd : Cmd) (ch : Channel) : (c.setActLast cmd ch).rdySync = c.rdySync := by cases ch <;> rfl
@[simp] theorem setActLast_decBlk (c : Controller) (cmd : Cmd) (ch : Channel) : (c.setActLast cmd ch).decBlk = c.decBlk := by cases ch <;> rfl
@[simp] theorem setActLast_decUart (c : Controller) (cmd : Cmd) (ch : Channel) : (c.setActLast cmd ch).decUart = c.decUart := by cases ch <;> rfl
@[simp] theorem setActLast_enc (c : Controller) (cmd : Cmd) (ch : Channel) : (c.setActLast cmd ch).enc = c.enc := by cases ch <;> rfl
@[simp] theorem setActLast_composed (c : Controller) (cmd : Cmd) (ch : Channel) : (c.setActLast cmd ch).composed = c.composed := by cases ch <;> rfl
@[simp] theorem setActLast_inflight (c : Controller) (cmd : Cmd) (ch : Channel) : (c.setActLast cmd ch).inflight = c.inflight := by cases ch <;> rfl
@[simp] theorem setActLast_serBlk (c : Controller) (cmd : Cmd) (ch : Channel) : (c.setActLast cmd ch).serBlk = c.serBlk := by cases ch <;> rfl
@[simp] theorem setActLast_serUart (c : Controller) (cmd : Cmd) (ch : Channel) : (c.setActLast cmd ch).serUart = c.serUart := by cases ch <;> rfl

@[simp] theorem actuate_cfg (ch : Channel) (cmd : Cmd) (s : State) : (actuate ch cmd s).cfg = s.cfg := rfl
@[simp] theorem actuate_br (ch : Channel) (cmd : Cmd) (s : State) : (actuate ch cmd s).br = s.br := rfl
@[simp] theorem actuate_env (ch : Channel) (cmd : Cmd) (s : State) : (actuate ch cmd s).env = s.env := rfl
@[simp] theorem actuate_ct (ch : Channel) (cmd : Cmd) (s : State) : (actuate ch cmd s).ct = s.ct.setActLast cmd ch := rfl
@[simp] theorem actuate_trace (ch : Channel) (cmd : Cmd) (s : State) :
    (actuate ch cmd s).trace = s.trace ++ [.act ch cmd (ActParam.get s.cfg.actParam ch cmd)] := rfl

/-! Byte-serial buffers -/

@[simp] theorem setSerBuf_same (c : Controller) (b : List Byte) (d : DecSel) : (c.setSerBuf b d).serBuf d = b := by
  cases d <;> rfl
@[simp] theorem setSerBuf_other (c : Controller) (b : List Byte) (d d' : DecSel) (h : d' ≠ d) :
    (c.setSerBuf b d).serBuf d' = c.serBuf d' := by cases d <;> cases d' <;> first | rfl | exact absurd rfl h
@[simp] theorem setSerBuf_actLast (c : Controller) (b : List Byte) (d : DecSel) (ch : Channel) :
    (c.setSerBuf b d).actLast ch = c.actLast ch := by cases d <;> cases ch <;> rfl
@[simp] theorem setSerBuf_cTx (c : Controller) (b : List Byte) (d : DecSel) : (c.setSerBuf b d).cTx = c.cTx := by cases d <;> rfl
@[simp] theorem setSerBuf_cRx (c : Controller) (b : List Byte) (d : DecSel) : (c.setSerBuf b d).cRx = c.cRx := by cases d <;> rfl
@[simp] theorem setSerBuf_cSt (c : Controller) (b : List Byte) (d : DecSel) : (c.setSerBuf b d).cSt = c.cSt := by cases d <;> rfl
@[simp] theorem setSerBuf_rdyMeta (c : Controller) (b : List Byte) (d : DecSel) : (c.setSerBuf b d).rdyMeta = c.rdyMeta := by cases d <;> rfl
@[simp] theorem setSerBuf_rdySync (c : Controller) (b : List Byte) (d : DecSel) : (c.setSerBuf b d).rdySync = c.rdySync := by cases d <;> rfl
@[simp] theorem setSerBuf_decBlk (c : Controller) (b : List Byte) (d : DecSel) : (c.setSerBuf b d).decBlk = c.decBlk := by cases d <;> rfl
@[simp] theorem setSerBuf_decUart (c : Controller) (b : List Byte) (d : DecSel) : (c.setSerBuf b d).decUart = c.decUart := by cases d <;> rfl
@[simp] theorem setSerBuf_actLift (c : Controller) (b : List Byte) (d : DecSel) : (c.setSerBuf b d).actLift = c.actLift := by cases d <;> rfl
@[simp] theorem setSerBuf_actTilt (c : Controller) (b : List Byte) (d : DecSel) : (c.setSerBuf b d).actTilt = c.actTilt := by cases d <;> rfl
@[simp] theorem setSerBuf_enc (c : Controller) (b : List Byte) (d : DecSel) : (c.setSerBuf b d).enc = c.enc := by cases d <;> rfl
@[simp] theorem setSerBuf_composed (c : Controller) (b : List Byte) (d : DecSel) : (c.setSerBuf b d).composed = c.composed := by cases d <;> rfl
@[simp] theorem setSerBuf_inflight (c : Controller) (b : List Byte) (d : DecSel) : (c.setSerBuf b d).inflight = c.inflight := by cases d <;> rfl

@[simp] theorem decCycle_cfg (d : DecSel) (i : DecIn) (s : State) : (decCycle d i s).cfg = s.cfg := rfl
@[simp] theorem decCycle_br (d : DecSel) (i : DecIn) (s : State) : (decCycle d i s).br = s.br := rfl
@[simp] theorem decCycle_env (d : DecSel) (i : DecIn) (s : State) : (decCycle d i s).env = s.env := rfl
@[simp] theorem decCycle_ct (d : DecSel) (i : DecIn) (s : State) :
    (decCycle d i s).ct = s.ct.setSerBuf (decNext s.cfg d (s.ct.serBuf d) i) d := rfl
@[simp] theorem decCycle_trace (d : DecSel) (i : DecIn) (s : State) :
    (decCycle d i s).trace = s.trace ++ decEvents s.cfg d (s.ct.serBuf d) i := rfl

@[simp] theorem failInitiated_cfg (s : State) : (failInitiated s).cfg = s.cfg := rfl
@[simp] theorem failInitiated_br (s : State) : (failInitiated s).br = (failExchange s).br := rfl
@[simp] theorem failInitiated_ct (s : State) : (failInitiated s).ct = (failExchange s).ct := rfl
@[simp] theorem failInitiated_env (s : State) : (failInitiated s).env = s.env := rfl
@[simp] theorem failInitiated_trace (s : State) :
    (failInitiated s).trace = (failExchange s).trace ++ [.log .controller .exchangeFailed] := rfl

/-! Ports and counters -/

/-- What the ports present of a payload is what its entry keeps (R249, R230). -/
theorem pad128_rxData (p : List Byte) : (eventPorts (.wirelessRx p)).rxData.map pad128 = some (pad128 p) := by
  simp only [eventPorts, pad128, blockSize, Option.map_some, Option.some.injEq]
  by_cases h : p.length ≤ 128
  · rw [List.take_of_length_le h]
  · rw [List.take_append_of_le_length (by rw [List.length_take]; omega), List.take_append_of_le_length (by omega),
      List.take_take, Nat.min_self]

/-- A counter of TIME_W bits gives the model's difference while the interval fits it (R337). -/
theorem counterElapsed_eq (c : Config) (now t : Nat) (h : t ≤ now) (hw : now - t < 2 ^ c.timeW) :
    counterElapsed c now t = now - t := by
  unfold counterElapsed
  have hp : 0 < 2 ^ c.timeW := Nat.two_pow_pos _
  generalize 2 ^ c.timeW = m at *
  obtain ⟨k, rfl⟩ := Nat.exists_eq_add_of_le h
  have hk : k < m := by omega
  have ht := Nat.mod_lt t hp
  rw [Nat.add_sub_cancel_left, Nat.add_mod, Nat.mod_eq_of_lt hk]
  by_cases hc : t % m + k < m
  · rw [Nat.mod_eq_of_lt hc, show t % m + k + m - t % m = k + m by omega, Nat.add_mod_right, Nat.mod_eq_of_lt hk]
  · have e : (t % m + k) % m = t % m + k - m := by
      rw [Nat.mod_eq_sub_mod (by omega)]; exact Nat.mod_eq_of_lt (by omega)
    rw [e, show t % m + k - m + m - t % m = k by omega, Nat.mod_eq_of_lt hk]

/-! The synchroniser and the latch: time and the two flops change, nothing else. -/

/-- `n` edges change the two flops only. -/
theorem syncEdges_shape (n : Nat) (s : State) :
    ∃ m y, syncEdges n s = { s with ct := { s.ct with rdyMeta := m, rdySync := y } } := by
  induction n generalizing s with
  | zero => exact ⟨s.ct.rdyMeta, s.ct.rdySync, rfl⟩
  | succ n ih => obtain ⟨m, y, h⟩ := ih (syncEdge s); exact ⟨m, y, h⟩

@[simp] theorem syncEdges_cfg (n : Nat) (s : State) : (syncEdges n s).cfg = s.cfg := by
  obtain ⟨m, y, h⟩ := syncEdges_shape n s; rw [h]
@[simp] theorem syncEdges_br (n : Nat) (s : State) : (syncEdges n s).br = s.br := by
  obtain ⟨m, y, h⟩ := syncEdges_shape n s; rw [h]
@[simp] theorem syncEdges_env (n : Nat) (s : State) : (syncEdges n s).env = s.env := by
  obtain ⟨m, y, h⟩ := syncEdges_shape n s; rw [h]
@[simp] theorem syncEdges_trace (n : Nat) (s : State) : (syncEdges n s).trace = s.trace := by
  obtain ⟨m, y, h⟩ := syncEdges_shape n s; rw [h]
@[simp] theorem syncEdges_ct_cTx (n : Nat) (s : State) : (syncEdges n s).ct.cTx = s.ct.cTx := by
  obtain ⟨m, y, h⟩ := syncEdges_shape n s; rw [h]
@[simp] theorem syncEdges_ct_cRx (n : Nat) (s : State) : (syncEdges n s).ct.cRx = s.ct.cRx := by
  obtain ⟨m, y, h⟩ := syncEdges_shape n s; rw [h]
@[simp] theorem syncEdges_ct_cSt (n : Nat) (s : State) : (syncEdges n s).ct.cSt = s.ct.cSt := by
  obtain ⟨m, y, h⟩ := syncEdges_shape n s; rw [h]
@[simp] theorem syncEdges_ct_decBlk (n : Nat) (s : State) : (syncEdges n s).ct.decBlk = s.ct.decBlk := by
  obtain ⟨m, y, h⟩ := syncEdges_shape n s; rw [h]
@[simp] theorem syncEdges_ct_decUart (n : Nat) (s : State) : (syncEdges n s).ct.decUart = s.ct.decUart := by
  obtain ⟨m, y, h⟩ := syncEdges_shape n s; rw [h]
@[simp] theorem syncEdges_ct_actLift (n : Nat) (s : State) : (syncEdges n s).ct.actLift = s.ct.actLift := by
  obtain ⟨m, y, h⟩ := syncEdges_shape n s; rw [h]
@[simp] theorem syncEdges_ct_actTilt (n : Nat) (s : State) : (syncEdges n s).ct.actTilt = s.ct.actTilt := by
  obtain ⟨m, y, h⟩ := syncEdges_shape n s; rw [h]
@[simp] theorem syncEdges_ct_enc (n : Nat) (s : State) : (syncEdges n s).ct.enc = s.ct.enc := by
  obtain ⟨m, y, h⟩ := syncEdges_shape n s; rw [h]
@[simp] theorem syncEdges_ct_composed (n : Nat) (s : State) : (syncEdges n s).ct.composed = s.ct.composed := by
  obtain ⟨m, y, h⟩ := syncEdges_shape n s; rw [h]
@[simp] theorem syncEdges_ct_inflight (n : Nat) (s : State) : (syncEdges n s).ct.inflight = s.ct.inflight := by
  obtain ⟨m, y, h⟩ := syncEdges_shape n s; rw [h]
@[simp] theorem syncEdges_ct_serBlk (n : Nat) (s : State) : (syncEdges n s).ct.serBlk = s.ct.serBlk := by
  obtain ⟨m, y, h⟩ := syncEdges_shape n s; rw [h]
@[simp] theorem syncEdges_ct_serUart (n : Nat) (s : State) : (syncEdges n s).ct.serUart = s.ct.serUart := by
  obtain ⟨m, y, h⟩ := syncEdges_shape n s; rw [h]

@[simp] theorem latch_cfg (p : Pins) (s : State) : (latch p s).cfg = s.cfg := by simp [latch]
@[simp] theorem latch_br (p : Pins) (s : State) : (latch p s).br = s.br := by simp [latch]
@[simp] theorem latch_trace (p : Pins) (s : State) : (latch p s).trace = s.trace := by simp [latch]
@[simp] theorem latch_env_now (p : Pins) (s : State) : (latch p s).env.now = s.env.now + p.dt := by simp [latch]
@[simp] theorem latch_env_nowC (p : Pins) (s : State) : (latch p s).env.nowC = s.env.nowC + p.dtC := by simp [latch]
@[simp] theorem latch_env_pins (p : Pins) (s : State) : (latch p s).env.pins = p := by simp [latch]
@[simp] theorem latch_env_inputs (p : Pins) (s : State) : (latch p s).env.inputs = s.env.inputs := by simp [latch]
@[simp] theorem latch_env_draws (p : Pins) (s : State) : (latch p s).env.draws = s.env.draws := by simp [latch]
@[simp] theorem latch_ct_cTx (p : Pins) (s : State) : (latch p s).ct.cTx = s.ct.cTx := by simp [latch]
@[simp] theorem latch_ct_cRx (p : Pins) (s : State) : (latch p s).ct.cRx = s.ct.cRx := by simp [latch]
@[simp] theorem latch_ct_cSt (p : Pins) (s : State) : (latch p s).ct.cSt = s.ct.cSt := by simp [latch]
@[simp] theorem latch_ct_decBlk (p : Pins) (s : State) : (latch p s).ct.decBlk = s.ct.decBlk := by simp [latch]
@[simp] theorem latch_ct_decUart (p : Pins) (s : State) : (latch p s).ct.decUart = s.ct.decUart := by simp [latch]
@[simp] theorem latch_ct_actLift (p : Pins) (s : State) : (latch p s).ct.actLift = s.ct.actLift := by simp [latch]
@[simp] theorem latch_ct_actTilt (p : Pins) (s : State) : (latch p s).ct.actTilt = s.ct.actTilt := by simp [latch]
@[simp] theorem latch_ct_enc (p : Pins) (s : State) : (latch p s).ct.enc = s.ct.enc := by simp [latch]
@[simp] theorem latch_ct_composed (p : Pins) (s : State) : (latch p s).ct.composed = s.ct.composed := by simp [latch]
@[simp] theorem latch_ct_inflight (p : Pins) (s : State) : (latch p s).ct.inflight = s.ct.inflight := by simp [latch]
@[simp] theorem latch_ct_serBlk (p : Pins) (s : State) : (latch p s).ct.serBlk = s.ct.serBlk := by simp [latch]
@[simp] theorem latch_ct_serUart (p : Pins) (s : State) : (latch p s).ct.serUart = s.ct.serUart := by simp [latch]

/-! The next stimulus taken: only the list of stimuli and the counter change. -/

@[simp] theorem takeStim_cfg (s : State) : (takeStim s).cfg = s.cfg := by
  unfold takeStim; split <;> rfl
@[simp] theorem takeStim_br (s : State) : (takeStim s).br = s.br := by
  unfold takeStim; split <;> rfl
@[simp] theorem takeStim_ct (s : State) : (takeStim s).ct = s.ct := by
  unfold takeStim; split <;> rfl
@[simp] theorem takeStim_trace (s : State) : (takeStim s).trace = s.trace := by
  unfold takeStim; split <;> rfl
@[simp] theorem takeStim_env_now (s : State) : (takeStim s).env.now = s.env.now := by
  unfold takeStim; split <;> rfl
@[simp] theorem takeStim_env_nowC (s : State) : (takeStim s).env.nowC = s.env.nowC := by
  unfold takeStim; split <;> rfl
@[simp] theorem takeStim_env_pins (s : State) : (takeStim s).env.pins = s.env.pins := by
  unfold takeStim; split <;> rfl

end Sys2Proof.Machine
end

