-- ==== Sys2Proof/Laws/Ops.lean ====
section
/-! SUPPORT. What each shared operation can do, said once: the buffers, sending, the meanings, and the agents' steps. -/

namespace Sys2Proof.Machine

/-! ## Sequencing -/

@[simp] theorem andThen_next (s : State) (f : State → Result) : andThen (.next s) f = f s := rfl

@[simp] theorem andThen_fault (r : Fault) (f : State → Result) : andThen (.fault r) f = .fault r := rfl

@[simp] theorem andThen_refused (r : Refusal) (f : State → Result) : andThen (.refused r) f = .refused r := rfl

theorem andThen_eq_next {o : Result} {f : State → Result} {t : State} (h : andThen o f = .next t) :
    ∃ s, o = .next s ∧ f s = .next t := by
  cases o with
  | next s => exact ⟨s, rfl, h⟩
  | fault r => cases h
  | refused r => cases h

/-! ## The transmit buffer -/

/-- In P_WAIT a write of `b_tx` is done. -/
theorem writeBTx_wait (b : Block) (s : State) (h : s.br.pSt = .wait) :
    writeBTx b s = .next { s with br := { s.br with bTx := b } } := by simp [writeBTx, h]

/-- A write of `b_tx` that has a next state was no violation of R80, and changed `b_tx` alone. -/
theorem writeBTx_next {b : Block} {s t : State} (h : writeBTx b s = .next t) :
    s.br.pSt ≠ .prepared ∧ s.br.pSt ≠ .ready ∧ t = { s with br := { s.br with bTx := b } } := by
  unfold writeBTx at h
  split_ifs at h with hp
  exact ⟨fun e => hp (.inl e), fun e => hp (.inr e), (Host.Outcome.next.inj h).symm⟩

/-- In P_WAIT the oldest entry, or zeros, goes to `b_tx` (R203). -/
theorem loadBTx_wait (s : State) (h : s.br.pSt = .wait) :
    loadBTx s = .next { s with br := { s.br with q := s.br.q.tail, bTx := s.br.q.headD (zeros blockSize) } } := by
  rcases s with ⟨cfg, br, ct, env, trace⟩
  rcases br with ⟨q⟩
  cases q <;> (simp only at h; subst h; simp [loadBTx, writeBTx])

/-- Loading `b_tx` changes the queue and `b_tx` alone. -/
theorem loadBTx_next {s t : State} (h : loadBTx s = .next t) :
    s.br.pSt ≠ .prepared ∧ s.br.pSt ≠ .ready ∧
    t = { s with br := { s.br with q := s.br.q.tail, bTx := s.br.q.headD (zeros blockSize) } } := by
  unfold loadBTx at h
  split at h
  · rename_i hq
    obtain ⟨h1, h2, rfl⟩ := writeBTx_next h
    exact ⟨h1, h2, by rcases s with ⟨cfg, br, ct, env, trace⟩; rcases br with ⟨q⟩; simp only at hq; subst hq; rfl⟩
  · rename_i e rest hq
    obtain ⟨s1, hw, h⟩ := andThen_eq_next h
    obtain ⟨h1, h2, rfl⟩ := writeBTx_next hw
    obtain rfl := Host.Outcome.next.inj h
    exact ⟨h1, h2, by simp [hq]⟩

/-! ## Sending -/

/-- Sending a notification puts out the attempt and its result, and writes `last_send` and `backoff_deadline` (R242 to
R244). -/
theorem radioSend_shape (note : List Byte) (s : State) :
    (sendSucceeds s = true ∧ radioSend note s = { s with
      br := { s.br with lastSend := some s.env.now, backoffDeadline := none }
      trace := s.trace ++ sendRequest note s ++ [.notify note] }) ∨
    (sendSucceeds s = false ∧ radioSend note s = { s with
      br := { s.br with lastSend := some s.env.now, backoffDeadline := some (s.env.now + s.cfg.backoffWindow) }
      trace := s.trace ++ sendRequest note s ++ [.log .bridge .sendFailed] }) := by
  cases h : sendSucceeds s
  · exact .inr ⟨rfl, by
      simp only [sendSucceeds] at h
      simp [radioSend, sendSucceeds, h, State.raise, State.emit, State.emits]⟩
  · exact .inl ⟨rfl, by
      simp only [sendSucceeds] at h
      simp [radioSend, sendSucceeds, h, State.emit, State.emits]⟩

/-! ## The meanings -/

/-- Everything a meaning can do. A frame of the eight kinds puts out one event and writes at most one channel's last
command; a notification writes at most `last_send` and `backoff_deadline`. -/
theorem exec_shape (i : Instr) (s : State) :
    (i.decodable = true ∧ ∃ o : Output, o.isSend = false ∧ exec i s = .next { s with trace := s.trace ++ [o] }) ∨
    (i.decodable = true ∧ ∃ ch cmd, commandOf i = some (ch, cmd) ∧ exec i s = .next { s with
      ct := s.ct.setActLast cmd ch
      trace := s.trace ++ [.act ch cmd (ActParam.get s.cfg.actParam ch cmd)] }) ∨
    (i.decodable = false ∧ ∃ l, exec i s = .next { s with trace := s.trace ++ l }) ∨
    (i.decodable = false ∧ ∃ l b, exec i s = .next { s with
      br := { s.br with lastSend := some s.env.now, backoffDeadline := b }
      trace := s.trace ++ l } ∧ (b = none ∨ b = some (s.env.now + s.cfg.backoffWindow))) := by
  cases i with
  | ping => exact .inl ⟨rfl, .ping, rfl, rfl⟩
  | telem d1 d2 => exact .inl ⟨rfl, .telemetryIgnored d1 d2, rfl, rfl⟩
  | liftExtend => exact .inr (.inl ⟨rfl, .lift, .extend, rfl, rfl⟩)
  | liftRetract => exact .inr (.inl ⟨rfl, .lift, .retract, rfl, rfl⟩)
  | liftBrake => exact .inr (.inl ⟨rfl, .lift, .brake, rfl, rfl⟩)
  | tiltExtend => exact .inr (.inl ⟨rfl, .tilt, .extend, rfl, rfl⟩)
  | tiltRetract => exact .inr (.inl ⟨rfl, .tilt, .retract, rfl, rfl⟩)
  | tiltBrake => exact .inr (.inl ⟨rfl, .tilt, .brake, rfl, rfl⟩)
  | telemNotify d1 d2 aux =>
    by_cases h : (d1 :: d2 :: aux).length ≤ maxPayload
    · obtain ⟨-, e⟩ | ⟨-, e⟩ := radioSend_shape (frameBytes idTelemetry (d1 :: d2 :: aux)) s
      · exact .inr (.inr (.inr ⟨rfl, _, none, by simp only [exec, execTelemNotify, encodeFrame, h, if_true]; rw [e, List.append_assoc],
          .inl rfl⟩))
      · exact .inr (.inr (.inr ⟨rfl, _, some (s.env.now + s.cfg.backoffWindow),
          by simp only [exec, execTelemNotify, encodeFrame, h, if_true]; rw [e, List.append_assoc], .inr rfl⟩))
    · exact .inr (.inr (.inl ⟨rfl, _, by simp only [exec, execTelemNotify, encodeFrame, h, if_false]; rfl⟩))

/-! ## Errors -/

/-- A telemetry checksum mismatch is logged and changes nothing else (R238). -/
theorem checkTelemetry_shape (s : State) :
    ∃ l, l.length ≤ 1 ∧ (∀ o ∈ l, o.isSend = false) ∧ checkTelemetry s = { s with trace := s.trace ++ l } := by
  unfold checkTelemetry
  split_ifs
  · exact ⟨[], by simp, by simp, by simp⟩
  · exact ⟨[.log _ _], by simp, by simp [Output.isSend], rfl⟩

/-- A failed exchange writes the two receive buffers, `ready`, `xfer_ok`, `p_st` and `composed`, and logs E10 (R207). -/
theorem failExchange_shape (s : State) : ∃ b c, b.length = blockSize ∧ (c = s.ct.cRx ∨ c.length = blockSize) ∧
    failExchange s = { s with
      br := { s.br with ready := false, xferOk := false, pSt := .post, bRx := b }
      ct := { s.ct with composed := false, cRx := c }
      trace := s.trace ++ [.log .bridge .exchangeFailed] } := by
  refine ⟨pad128 s.env.pins.bRxFail, if s.ct.cSt = .poll then pad128 s.env.pins.cRxFail else s.ct.cRx, by simp, ?_, rfl⟩
  split_ifs
  · exact .inr (by simp)
  · exact .inl rfl

/-- Composing writes `c_tx` and `composed`, or nothing (R211): the block always fits. -/
theorem composeStep_shape (s : State) : composeStep s = s ∨
    ∃ b, b.length = blockSize ∧ s.ct.cSt = .poll ∧ s.br.ready = true ∧
      composeStep s = { s with ct := { s.ct with cTx := b, composed := true } } := by
  unfold composeStep
  split_ifs with h
  · obtain ⟨h1, -, -, h4⟩ := h
    have hr : s.br.ready = true := by simp [readyObserved] at h4; exact h4.2
    rcases hp : s.env.pins.telemIn with _ | ⟨d1, d2⟩
    · exact .inr ⟨zeros blockSize, by simp, h1, hr, by simp [consumerBlock]⟩
    · exact .inr ⟨pad128 (encode s.cfg (.telem d1 d2)), by simp, h1, hr,
        by simp [consumerBlock, pack, encode, Instr.payload, blockSize]⟩
  · exact .inl rfl

/-- A decoder's log sends nothing. -/
theorem runLog_quiet (outs : List DecStep) : ∀ o ∈ runLog outs, o.isSend = false := by
  simp only [runLog, List.mem_map]
  rintro o ⟨e, -, rfl⟩
  rfl

/-- A serializer's cycle sends nothing to the radio. -/
theorem encEvents_quiet (e : EncSel) (r : EncRegs) (i : EncIn) : ∀ o ∈ encEvents e r i, o.isSend = false := by
  unfold encEvents
  cases encTaken r i <;> split_ifs <;> simp [Output.isSend]

/-- A byte-serial decoder's cycle sends nothing to the radio. -/
theorem decEvents_quiet (c : Config) (d : DecSel) (buf : List Byte) (i : DecIn) :
    ∀ o ∈ decEvents c d buf i, o.isSend = false := by
  unfold decEvents decPulse
  cases decodeStep c buf <;> split_ifs <;> simp [Output.isSend]

/-! ## Decode and dispatch -/

/-- The return to C_POLL writes `c_st` alone. -/
theorem settle_shape (s : State) : settle s = { s with ct := { s.ct with cSt := (settle s).ct.cSt } } := by
  unfold settle; split_ifs <;> rfl

/-- The flush writes `dec_blk.pend` alone, and logs at most E3 (R163). -/
theorem flushBlk_shape (s : State) : ∃ l, flushBlk s = { s with
    ct := { s.ct with decBlk := (flushBlk s).ct.decBlk }, trace := s.trace ++ l } ∧
    ((flushBlk s).ct.decBlk = s.ct.decBlk ∨ (flushBlk s).ct.decBlk = []) := by
  unfold flushBlk
  split_ifs
  · exact ⟨[.log .controller (.lengthMismatch s.ct.decBlk.length)], rfl, .inr rfl⟩
  · exact ⟨[], by simp, .inl rfl⟩

end Sys2Proof.Machine
end

