-- ==== Sys2Proof/Laws/Agents.lean ====
section
/-! SUPPORT. What one step of each agent can do, said once, so that a proof about steps need not unfold an agent. -/

namespace Sys2Proof.Machine

/-- Every meaning has a next state. -/
theorem exec_total (i : Instr) (s : State) : ∃ t, exec i s = .next t := by
  obtain ⟨-, o, -, e⟩ | ⟨-, ch, cmd, -, e⟩ | ⟨-, o, e⟩ | ⟨-, o, b, e, -⟩ := exec_shape i s <;> exact ⟨_, e⟩

/-- What a step of decode and dispatch leaves as it was, and how it may change a channel's last command: by the frame `f`
that it dispatches. -/
structure CmlFrame (f : Option Instr) (s t : State) : Prop where
  cfg : t.cfg = s.cfg
  env : t.env = s.env
  br : ∃ a b, t.br = { s.br with lastSend := a, backoffDeadline := b }
  brDecodable : (∀ i ∈ s.ct.inflight, i.decodable = true) → t.br = s.br
  trace : ∃ l, t.trace = s.trace ++ l
  quiet : (∀ i ∈ s.ct.inflight, i.decodable = true) → ∃ l, t.trace = s.trace ++ l ∧ ∀ o ∈ l, o.isSend = false
  cTx : t.ct.cTx = s.ct.cTx
  cRx : t.ct.cRx = s.ct.cRx
  cSt : t.ct.cSt = s.ct.cSt ∨ t.ct.cSt = .poll
  composed : t.ct.composed = s.ct.composed
  enc : t.ct.enc = s.ct.enc
  ser : t.ct.serBlk = s.ct.serBlk ∧ t.ct.serUart = s.ct.serUart
  rdy : t.ct.rdyMeta = s.ct.rdyMeta ∧ t.ct.rdySync = s.ct.rdySync
  act : ∀ ch, t.ct.actLast ch = s.ct.actLast ch ∨
    ∃ i cmd l, f = some i ∧ commandOf i = some (ch, cmd) ∧ t.ct.actLast ch = some cmd ∧ t.trace = s.trace ++ l ++ [.act ch cmd (ActParam.get s.cfg.actParam ch cmd)]

/-- Dispatch of one frame in flight, or the return to C_POLL. -/
theorem dispatchNext_frame {s t : State} (h : dispatchNext s = .next t) :
    CmlFrame s.ct.inflight.head? s t ∧ t.ct.decBlk = s.ct.decBlk ∧ t.ct.decUart = s.ct.decUart ∧ t.ct.inflight = s.ct.inflight.tail := by
  unfold dispatchNext at h
  split at h
  · rename_i hi
    obtain rfl := Host.Outcome.next.inj h
    refine ⟨⟨?_, ?_, ⟨s.br.lastSend, s.br.backoffDeadline, ?_⟩, fun _ => ?_, ⟨[], ?_⟩, fun _ => ⟨[], ?_, ?_⟩, ?_, ?_, ?_, ?_, ?_, ?_, ?_,
      fun ch => .inl ?_⟩,
      ?_, ?_, ?_⟩ <;> simp [settle, hi]
    cases ch <;> rfl
  · rename_i i rest hi
    obtain ⟨u, e, h⟩ := andThen_eq_next h
    obtain rfl := Host.Outcome.next.inj h
    have hs : ∀ v : State, CmlFrame s.ct.inflight.head? s v ∧ v.ct.decBlk = s.ct.decBlk ∧ v.ct.decUart = s.ct.decUart ∧ v.ct.inflight = rest →
        CmlFrame s.ct.inflight.head? s (settle v) ∧ (settle v).ct.decBlk = s.ct.decBlk ∧ (settle v).ct.decUart = s.ct.decUart ∧
          (settle v).ct.inflight = s.ct.inflight.tail := by
      rintro v ⟨f, h1, h2, h3⟩
      have e := settle_shape v
      have hc : (settle v).ct.cSt = v.ct.cSt ∨ (settle v).ct.cSt = .poll := by
        unfold settle; split_ifs
        · exact .inr rfl
        · exact .inl rfl
      rw [e]
      refine ⟨{ f with cSt := ?_, act := fun ch => by cases ch <;> [exact f.act .lift; exact f.act .tilt] }, h1, h2, by rw [hi]; exact h3⟩
      exact hc.elim (fun hc => hc ▸ f.cSt) .inr
    apply hs
    obtain ⟨-, o, hn, e'⟩ | ⟨-, ch, cmd, hc, e'⟩ | ⟨hd, o, e'⟩ | ⟨hd, o, b, e', -⟩ :=
      exec_shape i { s with ct := { s.ct with inflight := rest } } <;>
    (rw [e'] at e; obtain rfl := Host.Outcome.next.inj e)
    · exact ⟨⟨rfl, rfl, ⟨_, _, rfl⟩, fun _ => rfl, ⟨_, rfl⟩, fun _ => ⟨[o], rfl, by simpa using hn⟩, rfl, rfl,
        .inl rfl, rfl, rfl, ⟨rfl, rfl⟩, ⟨rfl, rfl⟩, fun ch => .inl (by cases ch <;> rfl)⟩, rfl, rfl, rfl⟩
    · refine ⟨⟨rfl, rfl, ⟨_, _, rfl⟩, fun _ => rfl, ⟨_, rfl⟩, fun _ => ⟨_, rfl, by simp [Output.isSend]⟩, ?_, ?_, .inl ?_, ?_, ?_, ?_, ?_, fun c => ?_⟩, ?_, ?_, ?_⟩
      all_goals cases ch
      all_goals first
        | rfl
        | exact ⟨rfl, rfl⟩
        | (cases c <;> first | exact .inl rfl | exact .inr ⟨i, cmd, [], by rw [hi]; rfl, hc, rfl, by simp⟩)
    all_goals have hi : ¬ ∀ j ∈ s.ct.inflight, j.decodable = true := fun hh => absurd (hh i (by simp [hi])) (by simp [hd])
    · exact ⟨⟨rfl, rfl, ⟨_, _, rfl⟩, fun _ => rfl, ⟨_, rfl⟩, fun hh => absurd hh hi, rfl, rfl, .inl rfl, rfl, rfl, ⟨rfl, rfl⟩,
        ⟨rfl, rfl⟩, fun ch => .inl (by cases ch <;> rfl)⟩, rfl, rfl, rfl⟩
    · exact ⟨⟨rfl, rfl, ⟨_, _, rfl⟩, fun hh => absurd hh hi, ⟨_, rfl⟩, fun hh => absurd hh hi, rfl, rfl, .inl rfl, rfl, rfl,
        ⟨rfl, rfl⟩, ⟨rfl, rfl⟩, fun ch => .inl (by cases ch <;> rfl)⟩, rfl, rfl, rfl⟩

/-- Decoding a block writes `dec_blk`, the frames in flight and the trace; its frames can all be dispatched. -/
theorem decodeBlk_shape (s : State) : ∃ p l, decodeBlk s = { s with
    ct := { s.ct with decBlk := p, inflight := (run s.cfg (feed s.ct.decBlk s.ct.cRx)).frames }, trace := s.trace ++ l } ∧
    decodeStep s.cfg p = .needMore ∧ ∀ o ∈ l, o.isSend = false := by
  unfold decodeBlk flushBlk
  simp only
  split_ifs
  · refine ⟨[], _, by simp only [State.emits, State.raise, State.emit, List.append_assoc]; rfl, rfl, fun o ho => ?_⟩
    rcases List.mem_append.mp ho with ho | ho
    · exact runLog_quiet _ o ho
    · rw [List.mem_singleton.mp ho]; rfl
  · exact ⟨_, _, rfl, run_pend_quiet _ _, runLog_quiet _⟩

/-- Decoding what the UART delivered writes `dec_uart`, the frames in flight and the trace. -/
theorem decodeUart_shape (s : State) : ∃ p l, decodeUart s = { s with
    ct := { s.ct with decUart := p, inflight := (run s.cfg (feed s.ct.decUart s.env.pins.uartIn)).frames },
    trace := s.trace ++ l } ∧ decodeStep s.cfg p = .needMore ∧ ∀ o ∈ l, o.isSend = false :=
  ⟨_, _, rfl, run_pend_quiet _ _, runLog_quiet _⟩

/-- A step that does nothing. -/
theorem CmlFrame.refl (f : Option Instr) (s : State) : CmlFrame f s s :=
  ⟨rfl, rfl, ⟨_, _, rfl⟩, fun _ => rfl, ⟨[], by simp⟩, fun _ => ⟨[], by simp⟩, rfl, rfl, .inl rfl, rfl, rfl, ⟨rfl, rfl⟩,
    ⟨rfl, rfl⟩, fun _ => .inl rfl⟩

/-- Dispatch right after decoding: the log of the decoding comes first. -/
theorem CmlFrame.decoded {f : Option Instr} {s u t : State} {k : Controller} {l : List Output} (h : CmlFrame f u t)
    (e : u = { s with ct := k, trace := s.trace ++ l })
    (hk : k.cTx = s.ct.cTx ∧ k.cRx = s.ct.cRx ∧ k.cSt = s.ct.cSt ∧ k.composed = s.ct.composed ∧ k.enc = s.ct.enc ∧
      k.serBlk = s.ct.serBlk ∧ k.serUart = s.ct.serUart ∧ k.rdyMeta = s.ct.rdyMeta ∧ k.rdySync = s.ct.rdySync ∧
      ∀ ch, k.actLast ch = s.ct.actLast ch)
    (hd : ∀ i ∈ k.inflight, i.decodable = true) (hl : ∀ o ∈ l, o.isSend = false) : CmlFrame f s t := by
  subst e
  obtain ⟨h1, h2, h3, h4, h5, h6, h7, h8, h9, h10⟩ := hk
  refine ⟨h.cfg, h.env, h.br, fun _ => h.brDecodable hd, ?_, fun _ => ?_, h.cTx.trans h1, h.cRx.trans h2, h3 ▸ h.cSt,
    h.composed.trans h4, h.enc.trans h5, ⟨h.ser.1.trans h6, h.ser.2.trans h7⟩, ⟨h.rdy.1.trans h8, h.rdy.2.trans h9⟩, fun ch => ?_⟩
  · obtain ⟨l', e⟩ := h.trace
    exact ⟨l ++ l', by rw [e, List.append_assoc]⟩
  · obtain ⟨l', e, hl'⟩ := h.quiet hd
    exact ⟨l ++ l', by rw [e, List.append_assoc], fun o ho => (List.mem_append.mp ho).elim (hl o) (hl' o)⟩
  · obtain a | ⟨i, cmd, l', hi, hc, a, b⟩ := h.act ch
    · exact .inl (a.trans (h10 ch))
    · exact .inr ⟨i, cmd, l ++ l', hi, hc, a, by rw [b]; simp⟩

/-- One step of `CML`'s decode and dispatch, from a state whose frames in flight are decodable. -/
theorem cmlStep_frame {s t : State} (h : cmlStep s = .next t) : CmlFrame (dispatched .cml s) s t ∧ t.ct.decUart = s.ct.decUart := by
  unfold cmlStep at h
  split at h
  · rename_i i rest hi
    have := dispatchNext_frame h
    rw [show dispatched .cml s = s.ct.inflight.head? by simp [dispatched, hi]]
    exact ⟨this.1, this.2.2.1⟩
  · rename_i hi
    split at h
    · obtain rfl := Host.Outcome.next.inj h; exact ⟨.refl _ _, rfl⟩
    · rename_i hc
      obtain ⟨p, l, e, -, hn⟩ := decodeBlk_shape s
      obtain ⟨f, -, hu, -⟩ := dispatchNext_frame h
      rw [show (decodeBlk s).ct.inflight.head? = dispatched .cml s by rw [e]; simp [dispatched, hi, hc]] at f
      exact ⟨f.decoded e ⟨rfl, rfl, rfl, rfl, rfl, rfl, rfl, rfl, rfl, fun ch => by cases ch <;> rfl⟩ (run_frames_decodable _ _) hn,
        by rw [hu, e]⟩

/-- One UART poll. -/
theorem uartStep_frame {s t : State} (h : uartStep s = .next t) :
    CmlFrame (dispatched .uart s) s t ∧ t.ct.decBlk = s.ct.decBlk ∧ t.ct.cSt = s.ct.cSt := by
  unfold uartStep at h
  split_ifs at h with hg
  · obtain ⟨p, l, e, -, hn⟩ := decodeUart_shape s
    obtain ⟨f, hb, -, -⟩ := dispatchNext_frame h
    rw [show (decodeUart s).ct.inflight.head? = dispatched .uart s by
      rw [e]; simp only [dispatched]; rw [if_pos hg]] at f
    have f := f.decoded e ⟨rfl, rfl, rfl, rfl, rfl, rfl, rfl, rfl, rfl, fun ch => by cases ch <;> rfl⟩ (run_frames_decodable _ _) hn
    exact ⟨f, by rw [hb, e], f.cSt.elim id fun hc => hc.trans hg.1.symm⟩
  · obtain rfl := Host.Outcome.next.inj h; exact ⟨.refl _ _, rfl, rfl⟩

/-- Everything a step of `EVT` can do: it writes the queue's tail, the triggers (only to set them), `link`, `conn` and
its own control, and sends nothing. -/
theorem evtStep_frame (s : State) :
    ∃ q o d k c es pc l, evtStep s = { s with
      br := { s.br with q := q, ovfTrig := o, discTrig := d, link := k, conn := c, evtQ := es, evtPc := pc }
      trace := s.trace ++ l } ∧
      (s.br.ovfTrig = true → o = true) ∧ (s.br.discTrig = true → d = true) ∧ (∀ o ∈ l, o.isSend = false) := by
  unfold evtStep
  split
  · split
    · exact ⟨_, _, _, _, _, _, _, [], by rw [List.append_nil], id, id, by simp⟩
    · rename_i e es _
      cases e with
      | wirelessRx p =>
        simp only [startEvent, receivePayload]
        split_ifs
        · exact ⟨_, _, _, _, _, _, _, [], by rw [List.append_nil]; rfl, id, id, by simp⟩
        · exact ⟨_, _, _, _, _, _, _, [.log _ _], rfl, fun _ => rfl, id, by simp [Output.isSend]⟩
      | connect n => exact ⟨_, _, _, _, _, _, _, [], by rw [List.append_nil]; rfl, id, id, by simp⟩
      | disconnect =>
        simp only [startEvent, latchDisconnect]
        split_ifs
        · exact ⟨_, _, _, _, _, _, _, [.log _ _], rfl, id, fun _ => rfl, by simp [Output.isSend]⟩
        · exact ⟨_, _, _, _, _, _, _, [], by rw [List.append_nil], id, id, by simp⟩
  · exact ⟨_, _, _, _, _, _, _, [], by rw [List.append_nil], id, id, by simp⟩
  · exact ⟨_, _, _, _, _, _, _, [], by rw [List.append_nil], id, id, by simp⟩
  · exact ⟨_, _, _, _, _, _, _, [], by rw [List.append_nil], id, id, by simp⟩

/-- Everything the joint exchange step can do. -/
theorem exchangeStep_cases {s t : State} (h : exchangeStep s = .next t) :
    (exchangeEnabled s = false ∧ t = s) ∨
    (exchangeEnabled s = true ∧ s.br.ready = true ∧ s.env.pins.xferOk = true ∧ t = completeExchange s) ∨
    (exchangeEnabled s = true ∧ s.br.ready = true ∧ s.env.pins.xferOk = false ∧ t = failInitiated s) := by
  unfold exchangeStep at h
  split_ifs at h with h1 h2 h3
  · exact .inr (.inl ⟨h1, h2, h3, (Host.Outcome.next.inj h).symm⟩)
  · exact .inr (.inr ⟨h1, h2, by simpa using h3, (Host.Outcome.next.inj h).symm⟩)
  · exact .inl ⟨by simpa using h1, (Host.Outcome.next.inj h).symm⟩

/-- Everything a step of `BML` can do, rule by rule. -/
theorem bmlStep_cases {s t : State} (h : bmlStep s = .next t) :
    t = s ∨
    (s.br.bmlPc = .idle ∧ s.br.pSt = .wait ∧ t = { s with
      br := { s.br with q := s.br.q.tail, bTx := s.br.q.headD (zeros blockSize), bmlPc := .takeDisc } }) ∨
    (s.br.bmlPc = .idle ∧ s.br.pSt = .prepared ∧ t = assertReady s) ∨
    (s.br.bmlPc = .idle ∧ s.br.pSt = .ready ∧ t = failExchange s) ∨
    (s.br.bmlPc = .idle ∧ s.br.pSt = .post ∧ ∃ l d1 d2, (∀ o ∈ l, o.isSend = false) ∧ t = { s with
      br := { s.br with bmlPc := .gate .link d1 d2 (auxBytes s.cfg.auxFields s.env.pins.auxIn) }, trace := s.trace ++ l }) ∨
    (s.br.bmlPc = .idle ∧ s.br.pSt = .post ∧ ∃ l, (∀ o ∈ l, o.isSend = false) ∧ t = finishCycle { s with trace := s.trace ++ l }) ∨
    (s.br.bmlPc = .takeDisc ∧ t = { s with br := { s.br with discTrig := false, bmlPc := .takeOvf s.br.discTrig } }) ∨
    (∃ d, s.br.bmlPc = .takeOvf d ∧
      t = { s with br := { s.br with ovfTrig := false, bmlPc := .override d s.br.ovfTrig } }) ∨
    (∃ d o, s.br.bmlPc = .override d o ∧ (d || o) = true ∧ s.br.pSt ≠ .prepared ∧ s.br.pSt ≠ .ready ∧
      t = { s with br := { s.br with bTx := brakeBlock s.cfg, bmlPc := .prepDone } }) ∨
    (∃ d o, s.br.bmlPc = .override d o ∧ (d || o) = false ∧ t = { s with br := { s.br with bmlPc := .prepDone } }) ∨
    (s.br.bmlPc = .prepDone ∧ t = { s with br := { s.br with pSt := .prepared, bmlPc := .idle } }) ∨
    (∃ d1 d2 aux a b l, s.br.bmlPc = .send d1 d2 aux ∧ t = { s with
      br := { s.br with lastSend := a, backoffDeadline := b, bmlPc := .finish }, trace := s.trace ++ l }) ∨
    (s.br.bmlPc = .finish ∧ t = finishCycle s) ∨
    (∃ f d1 d2 aux, s.br.bmlPc = .gate f d1 d2 aux ∧ (t = finishCycle s ∨ gateReads f s = true ∧
      t = { s with br := { s.br with bmlPc := gateNext d1 d2 aux f } })) := by
  unfold bmlStep at h
  split at h
  · rename_i hpc
    split at h
    · rename_i hp
      split_ifs at h
      · obtain ⟨u, e1, e2⟩ := andThen_eq_next h
        obtain ⟨-, -, rfl⟩ := loadBTx_next e1
        obtain rfl := Host.Outcome.next.inj e2
        exact .inr (.inl ⟨hpc, hp, rfl⟩)
      · exact .inl (Host.Outcome.next.inj h).symm
    · rename_i hp; exact .inr (.inr (.inl ⟨hpc, hp, (Host.Outcome.next.inj h).symm⟩))
    · rename_i hp
      split_ifs at h
      · exact .inr (.inr (.inr (.inl ⟨hpc, hp, (Host.Outcome.next.inj h).symm⟩)))
      · exact .inl (Host.Outcome.next.inj h).symm
    · rename_i hp
      obtain rfl := Host.Outcome.next.inj h
      obtain ⟨l, -, hn, e⟩ := checkTelemetry_shape s
      have self : finishCycle s = finishCycle { s with trace := s.trace ++ [] } := by simp
      unfold postStep outbound
      split_ifs
      · rw [e]
        exact .inr (.inr (.inr (.inr (.inl ⟨hpc, hp, l, _, _, hn, rfl⟩))))
      · exact .inr (.inr (.inr (.inr (.inr (.inl ⟨hpc, hp, [], by simp, self⟩)))))
      · exact .inr (.inr (.inr (.inr (.inr (.inl ⟨hpc, hp, [], by simp, self⟩)))))
  · rename_i hpc
    exact .inr (.inr (.inr (.inr (.inr (.inr (.inl ⟨hpc, (Host.Outcome.next.inj h).symm⟩))))))
  · rename_i d hpc
    exact .inr (.inr (.inr (.inr (.inr (.inr (.inr (.inl ⟨d, hpc, (Host.Outcome.next.inj h).symm⟩)))))))
  · rename_i d o hpc
    split_ifs at h with hb
    · obtain ⟨u, e1, e2⟩ := andThen_eq_next h
      obtain ⟨h1, h2, rfl⟩ := writeBTx_next e1
      obtain rfl := Host.Outcome.next.inj e2
      exact .inr (.inr (.inr (.inr (.inr (.inr (.inr (.inr (.inl ⟨d, o, hpc, hb, h1, h2, rfl⟩))))))))
    · exact .inr (.inr (.inr (.inr (.inr (.inr (.inr (.inr (.inr (.inl
        ⟨d, o, hpc, by simpa using hb, (Host.Outcome.next.inj h).symm⟩)))))))))
  · rename_i hpc
    exact .inr (.inr (.inr (.inr (.inr (.inr (.inr (.inr (.inr (.inr (.inl ⟨hpc, (Host.Outcome.next.inj h).symm⟩))))))))))
  · rename_i f d1 d2 aux hpc
    obtain rfl := Host.Outcome.next.inj h
    refine .inr (.inr (.inr (.inr (.inr (.inr (.inr (.inr (.inr (.inr (.inr (.inr (.inr ⟨f, d1, d2, aux, hpc, ?_⟩))))))))))))
    unfold gateStep
    split_ifs with hg
    · exact .inr ⟨hg, rfl⟩
    · exact .inl rfl
  · rename_i d1 d2 aux hpc
    obtain ⟨u, e1, e2⟩ := andThen_eq_next h
    obtain rfl := Host.Outcome.next.inj e2
    refine .inr (.inr (.inr (.inr (.inr (.inr (.inr (.inr (.inr (.inr (.inr (.inl ?_)))))))))))
    obtain ⟨hd, -⟩ | ⟨hd, -⟩ | ⟨-, o, e⟩ | ⟨-, o, b, e, -⟩ := exec_shape (.telemNotify d1 d2 aux) s
    · cases hd
    · cases hd
    · rw [e] at e1; obtain rfl := Host.Outcome.next.inj e1; exact ⟨d1, d2, aux, _, _, _, hpc, rfl⟩
    · rw [e] at e1; obtain rfl := Host.Outcome.next.inj e1; exact ⟨d1, d2, aux, _, _, _, hpc, rfl⟩
  · rename_i hpc
    exact .inr (.inr (.inr (.inr (.inr (.inr (.inr (.inr (.inr (.inr (.inr (.inr (.inl ⟨hpc, (Host.Outcome.next.inj h).symm⟩))))))))))))

end Sys2Proof.Machine
end

