-- ==== Sys2Proof/Laws/PerInstr.lean ====
section
/-! SUPPORT. What holds of every frame as syntax, one lemma per constructor. -/

namespace Sys2Proof.Laws.FrameShape

/-- R90, R93: under every configuration the frame begins with SYNC and its identifier, carries its payload verbatim, ends
with the checksum of identifier and payload, and is three bytes longer than its payload. -/
def Statement (i : Instr) : Prop :=
  ∀ c : Config, encode c i = [sync, i.id c] ++ i.payload ++ [sum8 (i.id c :: i.payload)] ∧
    (encode c i).length = i.payload.length + frameOverhead

theorem ping : Statement .ping := fun _ => ⟨rfl, length_frameBytes _ _⟩

theorem liftExtend : Statement .liftExtend := fun _ => ⟨rfl, length_frameBytes _ _⟩

theorem liftRetract : Statement .liftRetract := fun _ => ⟨rfl, length_frameBytes _ _⟩

theorem liftBrake : Statement .liftBrake := fun _ => ⟨rfl, length_frameBytes _ _⟩

theorem tiltExtend : Statement .tiltExtend := fun _ => ⟨rfl, length_frameBytes _ _⟩

theorem tiltRetract : Statement .tiltRetract := fun _ => ⟨rfl, length_frameBytes _ _⟩

theorem tiltBrake : Statement .tiltBrake := fun _ => ⟨rfl, length_frameBytes _ _⟩

theorem telem (d1 d2 : Byte) : Statement (.telem d1 d2) := fun _ => ⟨rfl, length_frameBytes _ _⟩

theorem telemNotify (d1 d2 : Byte) (aux : List Byte) : Statement (.telemNotify d1 d2 aux) := fun _ =>
  ⟨rfl, length_frameBytes _ _⟩

end Sys2Proof.Laws.FrameShape
end

