-- ==== Sys2Proof/Laws/Sound.lean ====
section
/-! SUPPORT. Each operation and each agent keeps the invariant of Safety.lean. -/

namespace Sys2Proof.Machine

/-- Latching draws keeps the invariant: time only goes forward. -/
theorem State.Inv.latch {s : State} (h : s.Inv) (p : Pins) : (latch p s).Inv := by
  obtain ⟨m, y, e⟩ := syncEdges_shape p.clkC { s with env := { s.env with now := s.env.now + p.dt, nowC := s.env.nowC + p.dtC, pins := p } }
  unfold Machine.latch; rw [e]
  exact { h with
    waitPast := Nat.le_add_right_of_le h.waitPast
    xferPast := Nat.le_add_right_of_le h.xferPast
    lastSendPast := fun t ht => Nat.le_add_right_of_le (h.lastSendPast t ht)
    backoffBounded := fun t ht => by
      have := h.backoffBounded t ht
      show t ≤ s.env.now + p.dt + s.cfg.backoffWindow
      omega
    sendUngated := fun d1 d2 aux hs t ht => Nat.le_add_right_of_le (h.sendUngated d1 d2 aux hs t ht) }

/-- In P_PREPARED and P_READY the main loop is between rules. -/
theorem State.Inv.bmlIdle {s : State} (h : s.Inv) (hp : s.br.pSt = .prepared ∨ s.br.pSt = .ready) : s.br.bmlPc = .idle := by
  have hf := h.bmlFits
  cases hb : s.br.bmlPc <;> rw [hb] at hf
  case gate => have e : s.br.pSt = .post := hf.1; rw [e] at hp; simp at hp
  case send => have e : s.br.pSt = .post := hf.1; rw [e] at hp; simp at hp
  case finish => have e : s.br.pSt = .post := hf; rw [e] at hp; simp at hp
  all_goals (have e : s.br.pSt = .wait := hf; rw [e] at hp; simp at hp)

/-- Outside P_READY the ready line is low. -/
theorem State.Inv.notReady {s : State} (h : s.Inv) (hp : s.br.pSt ≠ .ready) : s.br.ready = false := by
  cases hr : s.br.ready
  · rfl
  · exact absurd (h.readyIff.mp hr) hp

/-- A dispatched frame of the eight kinds keeps the invariant. -/
theorem State.Inv.exec {s t : State} {i : Instr} (h : s.Inv) (hi : i.decodable = true) (e : exec i s = .next t) : t.Inv := by
  obtain ⟨-, o, -, e'⟩ | ⟨-, ch, cmd, -, e'⟩ | ⟨hd, -⟩ | ⟨hd, -⟩ := exec_shape i s
  · rw [e'] at e; obtain rfl := Host.Outcome.next.inj e; exact { h with }
  · rw [e'] at e; obtain rfl := Host.Outcome.next.inj e; cases ch <;> exact { h with }
  · rw [hi] at hd; cases hd
  · rw [hi] at hd; cases hd

/-- Sending keeps the invariant once the main loop has moved on. -/
theorem State.Inv.sent {s t : State} {d1 d2 : Byte} {aux : List Byte} (h : s.Inv) (hb : s.br.bmlPc = .send d1 d2 aux)
    (e : Machine.exec (.telemNotify d1 d2 aux) s = .next t) : (t.goto .finish).Inv := by
  have hp : s.br.pSt = .post := by have := h.bmlFits; rw [hb] at this; exact this.1
  obtain ⟨hd, -⟩ | ⟨hd, -⟩ | ⟨-, o, e'⟩ | ⟨-, o, b, e', hbo⟩ := exec_shape (.telemNotify d1 d2 aux) s
  · cases hd
  · cases hd
  · rw [e'] at e; obtain rfl := Host.Outcome.next.inj e
    exact { h with bmlFits := hp, sendUngated := fun _ _ _ hs => by cases hs }
  · rw [e'] at e; obtain rfl := Host.Outcome.next.inj e
    exact { h with
      bmlFits := hp
      sendUngated := fun _ _ _ hs => by cases hs
      lastSendPast := fun t ht => by obtain rfl := Option.some.inj ht; exact le_rfl
      backoffBounded := fun t ht => by
        rcases hbo with rfl | rfl
        · cases ht
        · obtain rfl := Option.some.inj ht; exact le_rfl }

/-- A failed exchange keeps the invariant. -/
theorem State.Inv.failExchange {s : State} (h : s.Inv) (hb : s.br.bmlPc = .idle) : (failExchange s).Inv := by
  obtain ⟨b, c, hbl, hc, e⟩ := failExchange_shape s
  rw [e]
  exact { h with
    readyIff := by simp
    bRxWhole := hbl
    cRxWhole := hc.elim (fun hc => hc ▸ h.cRxWhole) id
    bmlFits := by simp only [hb]; trivial
    xferOkPost := by simp
    composedReady := by simp }

/-- A drawn failure keeps the invariant. -/
theorem State.Inv.failInitiated {s : State} (h : s.Inv) (hb : s.br.bmlPc = .idle) : (failInitiated s).Inv :=
  { h.failExchange hb with }

/-- The end of a cycle keeps the invariant. -/
theorem State.Inv.finishCycle {s : State} (h : s.Inv) (hp : s.br.pSt ≠ .ready) : (finishCycle s).Inv :=
  { h with
    readyIff := by simp [h.notReady hp]
    bmlFits := trivial
    xferOkPost := by simp
    waitPast := le_rfl
    composedReady := h.composedReady
    sendUngated := fun _ _ _ hs => by cases hs }

theorem State.Inv.settle {s : State} (h : s.Inv) : (settle s).Inv := by
  unfold Machine.settle
  split_ifs
  · exact { h with composedReady := fun hc => ⟨(h.composedReady hc).1, rfl⟩ }
  · exact h

/-- Dispatching the frames in flight keeps the invariant. -/
theorem State.Inv.dispatchNext {s t : State} (h : s.Inv) (e : dispatchNext s = .next t) : t.Inv := by
  unfold Machine.dispatchNext at e
  split at e
  · obtain rfl := Host.Outcome.next.inj e; exact h.settle
  · rename_i i rest hi
    obtain ⟨u, e1, e2⟩ := andThen_eq_next e
    obtain rfl := Host.Outcome.next.inj e2
    have h' : State.Inv { s with ct := { s.ct with inflight := rest } } :=
      { h with inflightDecodable := fun j hj => h.inflightDecodable j (by rw [hi]; exact List.mem_cons_of_mem _ hj) }
    exact (h'.exec (h.inflightDecodable i (by simp [hi])) e1).settle

theorem State.Inv.decodeBlk {s : State} (h : s.Inv) : (decodeBlk s).Inv := by
  obtain ⟨p, l, e, hq, -⟩ := decodeBlk_shape s
  rw [e]
  exact { h with blkQuiet := hq, inflightDecodable := run_frames_decodable _ _ }

theorem State.Inv.decodeUart {s : State} (h : s.Inv) : (decodeUart s).Inv := by
  obtain ⟨p, l, e, hq, -⟩ := decodeUart_shape s
  rw [e]
  exact { h with uartQuiet := hq, inflightDecodable := run_frames_decodable _ _ }

/-- A step of `EVT` keeps the invariant. -/
theorem State.Inv.evtStep {s : State} (h : s.Inv) : (evtStep s).Inv := by
  unfold Machine.evtStep
  split
  · split
    · exact h
    · rename_i e es _
      cases e with
      | wirelessRx p =>
        simp only [startEvent, receivePayload]
        split_ifs with hq
        · exact { h with
            queueFits := by simp only [enqueue_br_q, List.length_append, List.length_singleton]; exact hq
            entriesWhole := by
              intro x hx
              simp only [enqueue_br_q, List.mem_append, List.mem_singleton] at hx
              rcases hx with hx | rfl
              · exact h.entriesWhole x hx
              · exact length_pad128 p }
        · exact { h with }
      | connect n =>
        exact { h with
          linkHasConn := fun _ => by simp [startEvent]
          setLinkHasConn := fun _ => by simp [startEvent]
          clearConnDown := fun hh => by cases hh }
      | disconnect =>
        simp only [startEvent, latchDisconnect]
        split_ifs
        · exact { h with setLinkHasConn := (nomatch ·), clearConnDown := (nomatch ·) }
        · exact { h with setLinkHasConn := (nomatch ·), clearConnDown := (nomatch ·) }
  · rename_i hp
    exact { h with
      linkHasConn := fun _ => h.setLinkHasConn hp
      setLinkHasConn := fun hh => by cases hh
      clearConnDown := fun hh => by cases hh }
  · exact { h with
      linkHasConn := fun hh => by cases hh
      setLinkHasConn := fun hh => by cases hh
      clearConnDown := fun _ => rfl }
  · rename_i hp
    exact { h with
      linkHasConn := fun hh => by
        have h2 := h.clearConnDown hp
        have hh : s.br.link = .connected := hh
        rw [hh] at h2; cases h2
      setLinkHasConn := fun hh => by cases hh
      clearConnDown := fun hh => by cases hh }

/-- Composing the controller's block keeps the invariant. -/
theorem State.Inv.composeStep {s : State} (h : s.Inv) : (composeStep s).Inv := by
  obtain e | ⟨b, hb, hc, hr, e⟩ := composeStep_shape s
  · rw [e]; exact h
  · rw [e]; exact { h with cTxWhole := hb, composedReady := fun _ => ⟨hr, hc⟩ }

/-- A serializer's cycle keeps its registers sound. -/
theorem EncRegs.Ok.next {r : EncRegs} (h : r.Ok) (i : EncIn) : (encNext r i).Ok := by
  rcases r with ⟨st, id, len, cnt, acc⟩
  obtain ⟨h1, h2, h3, h4⟩ := h
  simp only at h1 h2 h3 h4
  cases st <;> simp only [encNext] <;> split_ifs <;> (refine ⟨?_, ?_, fun hh => ?_, fun hh => ?_⟩) <;> simp at * <;> omega

/-- A byte-serial decoder's buffer never holds more than five bytes (R170). -/
theorem decNext_length (c : Config) (d : DecSel) (buf : List Byte) (i : DecIn) (h : buf.length ≤ maxDeclFrame) :
    (decNext c d buf i).length ≤ maxDeclFrame := by
  have h5 : maxDeclFrame = 5 := rfl
  have ha : (decAccepted c buf i).length ≤ 1 := by unfold decAccepted; split_ifs <;> simp
  unfold decNext
  split_ifs with h1 h2
  · rw [List.length_append, List.length_nil]; omega
  · simp only [decInReady, decide_eq_true_eq] at h1
    have := (quiet_shape c buf h1).1
    rw [List.length_append]; omega
  · rw [List.length_drop]; omega

/-- A byte-serial decoder's cycle keeps the invariant. -/
theorem State.Inv.decCycle {s : State} (h : s.Inv) (d : DecSel) (i : DecIn) : (decCycle d i s).Inv := by
  cases d
  · exact { h with serBlkFits := decNext_length _ _ _ _ h.serBlkFits }
  · exact { h with serUartFits := decNext_length _ _ _ _ h.serUartFits }

end Sys2Proof.Machine
end

