-- ==== Sys2Proof/Laws/Step.lean ====
section
/-! SUPPORT. A step is the next stimulus performed under an admissible configuration. -/

namespace Sys2Proof.Machine

/-- Under an admissible configuration a step performs the next stimulus. -/
theorem step_eq (s : State) (h : s.cfg.wf = true) : step s = perform (nextStim s) (takeStim s) := by
  simp only [Config.wf, Bool.and_eq_true] at h
  simp [step, stepOnce, h]

/-- A step with a next state had an admissible configuration. -/
theorem step_next {s t : State} (h : step s = .next t) :
    s.cfg.wf = true ∧ perform (nextStim s) (takeStim s) = .next t := by
  unfold step stepOnce at h
  split_ifs at h with h1 h2
  exact ⟨by simp [Config.wf, h1, h2], h⟩

end Sys2Proof.Machine
end

