-- ==== Sys2Proof/Tests/Slice0.lean ====
section
/-! SUPPORT. Tests with results taken from spec/ (each names its vector or rule), and a witness for the hypotheses of every
statement that has any. -/

namespace Sys2Proof.Tests

open Sys2Proof Sys2Proof.Machine

/-! ## WellFormed refuses what the spec refuses -/

/-- R98: two identifiers equal, or an actuator identifier equal to ID_PING or ID_TELEMETRY, is refused; SYNC is allowed. -/
theorem test_ids_refused :
    ({ Config.refcfg with idTiltBrake := 0x41 } : Config).wf = false ∧
    ({ Config.refcfg with idLiftExtend := 0x50 } : Config).wf = false ∧
    ({ Config.refcfg with idTiltRetract := 0x60 } : Config).wf = false ∧
    ({ Config.refcfg with idLiftExtend := 0xA5 } : Config).wf = true := by decide

/-- R10: capacity 0, a zero duration and AUX_LEN 124 are refused; MIN_SEND_INTERVAL 0 and AUX_LEN 123 are not. -/
theorem test_range_refused :
    ({ Config.refcfg with queueCap := 0 } : Config).wf = false ∧
    ({ Config.refcfg with backoffWindow := 0 } : Config).wf = false ∧
    ({ Config.refcfg with queueWaitTimeout := 0 } : Config).wf = false ∧
    ({ Config.refcfg with xferTimeout := 0 } : Config).wf = false ∧
    ({ Config.refcfg with auxFields := [100, 24] } : Config).wf = false ∧
    ({ Config.refcfg with auxFields := [100, 23], minSendInterval := 0 } : Config).wf = true := by decide

/-- R99: a notification with another number of auxiliary bytes is ill-formed. -/
theorem test_notify_refused :
    (Instr.telemNotify 1 2 [3, 4, 5]).wf Config.refcfg = false ∧
    (Instr.telemNotify 1 2 [3, 4, 5, 6]).wf Config.refcfg = true := by decide

/-- R98, R323: a step refuses each such configuration under its own name. -/
theorem test_step_refuses :
    step (State.resetAt { Config.refcfg with idTiltBrake := 0x41 } 0 0) = .refused .ambiguousIdentifiers ∧
    step (State.resetAt { Config.refcfg with queueCap := 0 } 0 0) = .refused .configurationOutOfRange := ⟨rfl, rfl⟩

/-! ## Decoding: words written out bit by bit from opcode_table.json -/

theorem test_decode_ping : decodeTableWord 24 0b10100101_01010000_01010000 = some .ping := rfl

theorem test_decode_lift :
    decodeTableWord 24 0b10100101_00110000_00110000 = some .liftExtend ∧
    decodeTableWord 24 0b10100101_00110001_00110001 = some .liftRetract ∧
    decodeTableWord 24 0b10100101_00110010_00110010 = some .liftBrake := ⟨rfl, rfl, rfl⟩

theorem test_decode_tilt :
    decodeTableWord 24 0b10100101_01000000_01000000 = some .tiltExtend ∧
    decodeTableWord 24 0b10100101_01000001_01000001 = some .tiltRetract ∧
    decodeTableWord 24 0b10100101_01000010_01000010 = some .tiltBrake := ⟨rfl, rfl, rfl⟩

/-- V8, V8b, V8c. -/
theorem test_decode_telem :
    decodeTableWord 40 0b10100101_01100000_00010010_00110100_10100110 = some (.telem 0x12 0x34) ∧
    decodeTableWord 40 0xA5604005A5 = some (.telem 0x40 0x05) ∧
    decodeTableWord 40 0xA560000060 = some (.telem 0 0) := ⟨rfl, rfl, rfl⟩

/-- V9. -/
theorem test_decode_notify :
    decodeTableWord 72 0xA56012340064012C37 = some (.telemNotify 0x12 0x34 [0x00, 0x64, 0x01, 0x2C]) := rfl

/-- R154, R156: an identifier outside the set, and a wrong checksum, give no instruction. -/
theorem test_decode_refuses :
    decodeTableWord 24 0xA50707 = none ∧ decodeTableWord 24 0xA55051 = none ∧ decodeTableWord 40 0xA5601234A7 = none ∧
    decodeTableWord 72 0xA56012340064012C38 = none := ⟨rfl, rfl, rfl, rfl⟩

/-! ## The decoder on the vectors of 95_test_vectors.md -/

/-- V17, V18, V20. -/
theorem test_run_resync :
    run .refcfg [0xA5, 0x60, 0x12, 0x34, 0xA7] =
      ⟨[.badChecksum 0x60, .skipped 0x60, .skipped 0x12, .skipped 0x34, .skipped 0xA7], []⟩ ∧
    run .refcfg [0x00, 0xFF, 0x17, 0xA5, 0x32, 0x32] =
      ⟨[.skipped 0x00, .skipped 0xFF, .skipped 0x17, .frame .liftBrake], []⟩ ∧
    run .refcfg [0xA5, 0x60, 0xA5, 0x50, 0x50] = ⟨[.badChecksum 0x60, .skipped 0x60, .frame .ping], []⟩ := by decide

/-- V14, V19, V21, V27c. -/
theorem test_run_sync_in_odd_places :
    run .refcfg [0xA5, 0x07, 0x07] = ⟨[.unknownId 0x07, .skipped 0x07, .skipped 0x07], []⟩ ∧
    run .refcfg [0xA5, 0xA5, 0x50, 0x50] = ⟨[.unknownId 0xA5, .frame .ping], []⟩ ∧
    run .refcfg [0xA5, 0x60, 0xA5, 0x50, 0x55] = ⟨[.frame (.telem 0xA5 0x50)], []⟩ ∧
    run .refcfg [0xA5, 0x60, 0x40] = ⟨[], [0xA5, 0x60, 0x40]⟩ := by decide

set_option maxRecDepth 4000 in
/-- V8a, V8d, V9c, V9e. -/
theorem test_encode :
    encodeFrame 0x60 [0xFF, 0xFF] = some [0xA5, 0x60, 0xFF, 0xFF, 0x5E] ∧
    encodeFrame 0x60 [0xA5, 0x50] = some [0xA5, 0x60, 0xA5, 0x50, 0x55] ∧
    encodeFrame 0xA5 [] = some [0xA5, 0xA5, 0xA5] ∧ encodeFrame 0x77 (zeros 126) = none := ⟨rfl, rfl, rfl, rfl⟩

set_option maxRecDepth 4000 in
/-- V9g, V9h. -/
theorem test_pack :
    (pack [encode .refcfg .liftBrake, encode .refcfg .tiltBrake]).map (List.take 8)
      = some [0xA5, 0x32, 0x32, 0xA5, 0x42, 0x42, 0x00, 0x00] ∧
    pack (List.replicate 43 (encode .refcfg .liftExtend)) = none := ⟨rfl, rfl⟩

/-! ## One step -/

/-- The machine after reset, with these stimuli to come. -/
def withInputs (xs : List Stim) (s : State) : State := { s with env := { s.env with inputs := xs } }

/-- The reset machine about to be polled at its UART with these bytes delivered. -/
def uart (bs : List Byte) : State := withInputs [.run .uart { Pins.quiet with uartIn := bs }] State.reset

/-- What is left of a step: the last commands of the two channels, and the output. -/
def seen : Result → Option (Option Cmd × Option Cmd × List Output)
  | .next s => some (s.ct.actLift, s.ct.actTilt, s.trace)
  | .fault _ => none
  | .refused _ => none

/-- V1, R183: a Ping moves nothing. -/
theorem test_ping_step : seen (step (uart [0xA5, 0x50, 0x50])) = some (none, none, [.ping]) := by decide

/-- The two zero bytes after a three-byte word, skipped (R152). -/
def padSkips : List Output := [.log .controller (.badSync 0), .log .controller (.badSync 0)]

/-- R184, R187 (REFCFG examples), fetched through `withFetchWord`. -/
theorem test_extend_steps :
    seen (step (State.reset.withFetchWord 24 0xA53030)) = some (some .extend, none, padSkips ++ [.act .lift .extend 0]) ∧
    seen (step (State.reset.withFetchWord 24 0xA54040)) =
      some (none, some .extend, padSkips ++ [.act .tilt .extend 0]) := by decide

/-- R185, R188. -/
theorem test_retract_steps :
    seen (step (State.reset.withFetchWord 24 0xA53131)) = some (some .retract, none, padSkips ++ [.act .lift .retract 0]) ∧
    seen (step (State.reset.withFetchWord 24 0xA54141)) =
      some (none, some .retract, padSkips ++ [.act .tilt .retract 0]) := by decide

/-- R186, R189. -/
theorem test_brake_steps :
    seen (step (State.reset.withFetchWord 24 0xA53232)) = some (some .brake, none, padSkips ++ [.act .lift .brake 0]) ∧
    seen (step (State.reset.withFetchWord 24 0xA54242)) =
      some (none, some .brake, padSkips ++ [.act .tilt .brake 0]) := by decide

/-- R190. -/
theorem test_telem_step :
    seen (step (State.reset.withFetchWord 40 0xA5601234A6)) = some (none, none, [.telemetryIgnored 0x12 0x34]) := by decide

/-- The bridge with a connected peer. -/
def connected : State := { State.reset with br := { State.reset.br with link := .connected, conn := some 7 } }

/-- R242, R243: with no peer the attempt fails; with one that refuses, the radio has been asked. -/
theorem test_notify_fails :
    seen (step (State.reset.withFetchWord 72 0xA56012340064012C37)) = some (none, none, [.log .bridge .sendFailed]) ∧
    (radioSend [0xA5] { connected with env := { connected.env with pins := { Pins.quiet with sendOk := false } } }).trace
      = [.radioSend 7 [0xA5] false, .log .bridge .sendFailed] := by decide

/-- The notification of V9. -/
def v9 : List Byte := [0xA5, 0x60, 0x12, 0x34, 0x00, 0x64, 0x01, 0x2C, 0x37]

/-- V30: the notification goes out. -/
theorem test_notify_step :
    seen (step (connected.withFetchWord 72 0xA56012340064012C37))
      = some (none, none, [.radioSend 7 v9 true, .notify v9]) := by decide

/-- The connected bridge in P_POST with this received block's head, and auxiliary readings 100 and 300. -/
def posted (b : List Byte) : State :=
  { connected with
    br := { connected.br with pSt := .post, xferOk := true, bRx := pad128 b }
    env := { connected.env with pins := { Pins.quiet with auxIn := [100, 300] } } }

/-- V31: a wrong checksum is logged, and the telemetry sent on all the same, in five steps of the main loop. -/
theorem test_outbound_bad_checksum :
    seen (bmlSteps 5 (posted [0xA5, 0x60, 0x12, 0x34, 0x00])) = some (none, none,
      [.log .bridge (.telemetryChecksumMismatch 0x00), .radioSend 7 v9 true, .notify v9]) := by decide

/-- V32c: telemetry at offset 1 is not recognised. -/
theorem test_outbound_no_scan :
    bmlStep (posted [0x00, 0xA5, 0x60, 0x12, 0x34]) = .next (finishCycle (posted [0x00, 0xA5, 0x60, 0x12, 0x34])) := rfl

/-- The connected bridge with these timestamps, at this time. -/
def timed (last back : Option Nat) (now : Nat) : State :=
  { connected with
    br := { connected.br with lastSend := last, backoffDeadline := back }
    env := { connected.env with now := now } }

/-- V33a to V33g. -/
theorem test_gate :
    maySend (timed none none 0) = true ∧ maySend State.reset = false ∧
    maySend (timed (some 1000) none 1099) = false ∧ maySend (timed (some 1000) none 1100) = true ∧
    maySend (timed (some 1000) (some 3000) 2999) = false ∧ maySend (timed (some 1000) (some 3000) 3000) = true ∧
    maySend (timed (some 2950) (some 3000) 3000) = false := by decide

/-- R128 to R136: the byte-serial trace of V8. -/
theorem test_serial_encoder :
    (encSerialize (encNext EncRegs.reset ⟨true, 0x60, 2, false, 0, false⟩)
      [⟨false, 0, 0, true, 0, true⟩, ⟨false, 0, 0, true, 0, true⟩, ⟨false, 0, 0, true, 0x12, true⟩,
        ⟨false, 0, 0, true, 0x34, true⟩, ⟨false, 0, 0, true, 0, true⟩]).1 =
      [(0xA5, false), (0x60, false), (0x12, false), (0x34, false), (0xA6, true)] := by decide

/-- R134: while `p_valid` is 0 in E_PAYLOAD, `o_valid` is 0, and `o_data`, `o_last` and `p_ready` follow the inputs all the same;
no byte is taken. -/
theorem test_encoder_payload_ports :
    encOut ⟨.payload, 0x60, 2, 0, 0x60⟩ ⟨false, 0, 0, false, 0x12, true⟩ = ⟨false, some (0x12, false), true, true, false⟩ ∧
    encTaken ⟨.payload, 0x60, 2, 0, 0x60⟩ ⟨false, 0, 0, false, 0x12, true⟩ = none ∧
    encTaken ⟨.payload, 0x60, 2, 0, 0x60⟩ ⟨false, 0, 0, true, 0x12, true⟩ = some (0x12, false) := by decide

/-- R193, R292: a pulse stands on its own channel's ports, and an error of the bridge on none of the controller's. -/
theorem test_dispatch_ports :
    (dispatchPorts (.act .tilt .brake 0)).channel .tilt = ⟨true, some 2⟩ ∧
    (dispatchPorts (.act .tilt .brake 0)).channel .lift = ⟨false, none⟩ ∧ (dispatchPorts .ping).pingEvt = true ∧
    (dispatchPorts (.log .controller .exchangeFailed)).logCode = some 10 ∧
    dispatchPorts (.log .bridge .queueFull) = .quiet := by decide

set_option maxRecDepth 4000 in
/-- R249: the request and its result, and a payload of 130 bytes, of which 128 are presented. -/
theorem test_bridge_ports :
    txPorts (.radioSend 7 v9 false) = ⟨true, some 7, some 9, some v9, true, some false⟩ ∧
    (eventPorts (.wirelessRx (zeros 130))).rxLen = some 128 ∧
    (eventPorts (.wirelessRx (zeros 130))).rxData = some (zeros 128) :=
  ⟨rfl, rfl, rfl⟩

/-- R170: the codes of a decoder's error port. -/
theorem test_decoder_port :
    decEvents .refcfg .decUart [0xA5, 0x07] ⟨false, 0, false⟩ = [.decErr .decUart 2, .log .controller (.unknownId 0x07)] := by
  decide

/-- R163, R283: a flush of a pending byte is E3 on dec_blk under DEC_FLUSH_AT_BLOCK_END, and nothing by default or on
dec_uart. -/
theorem test_decoder_flush :
    decNext { Config.refcfg with decFlushAtBlockEnd := true } .decBlk [0xA5] ⟨false, 0, true⟩ = [] ∧
    decEvents { Config.refcfg with decFlushAtBlockEnd := true } .decBlk [0xA5] ⟨false, 0, true⟩
      = [.log .controller (.lengthMismatch 1)] ∧
    decNext .refcfg .decBlk [0xA5] ⟨false, 0, true⟩ = [0xA5] ∧ decEvents .refcfg .decBlk [0xA5] ⟨false, 0, true⟩ = [] ∧
    decNext { Config.refcfg with decFlushAtBlockEnd := true } .decUart [0xA5] ⟨false, 0, true⟩ = [0xA5] := by decide

/-- R232, R268: the rejection and its trigger are one step. R290, R292: a drawn failure is logged on both devices. -/
theorem test_overflow_and_failure :
    (receivePayload [0x01] { State.reset with cfg := { Config.refcfg with queueCap := 0 } }).br.ovfTrig = true ∧
    (failInitiated State.reset).trace = [.log .bridge .exchangeFailed, .log .controller .exchangeFailed] := by decide

/-- U4, U3: what the two faults guard. -/
theorem test_faults :
    writeBTx (zeros 128) { State.reset with br := { State.reset.br with pSt := .prepared } }
      = .fault .txBufferWrittenInFlight ∧
    exchangeStep { State.reset with
      br := { State.reset.br with pSt := .ready }, ct := { State.reset.ct with composed := true } }
      = .fault .exchangeWithoutReady := ⟨rfl, rfl⟩

/-! ## Witnesses: a concrete state and operands that meet all of a statement's hypotheses, at the boundary of each clause -/

theorem test_witness_TelemetryAtControllerIsOnlyLogged : State.reset.cfg.idsDistinct = true := by decide

/-- The connected machine with the radio refusing. -/
def refusing : State := { connected with env := { connected.env with pins := { Pins.quiet with sendOk := false } } }

theorem test_witness_NotifySendsItsFrameOrReportsFailure :
    ((zeros 123).length ≤ 123 ∧ connected.br.conn = some 7 ∧ connected.env.pins.sendOk = true) ∧
    ((zeros 123).length ≤ 123 ∧ State.reset.br.conn = none) ∧
    ((zeros 123).length ≤ 123 ∧ refusing.br.conn = some 7 ∧ refusing.env.pins.sendOk = false) ∧
    123 < (zeros 124).length := ⟨⟨by simp, rfl, rfl⟩, ⟨by simp, rfl⟩, ⟨by simp, rfl, rfl⟩, by simp⟩

theorem test_witness_EncodeGivesOneFrameOrFails : (zeros 125).length ≤ 125 ∧ 125 < (zeros 126).length := by simp

theorem test_witness_PackFillsOneBlockOrFails : [zeros 128].flatten.length ≤ 128 ∧ 128 < [zeros 129].flatten.length := by
  simp

theorem test_witness_EveryBitFlipChangesTheChecksum : 1 < ([0x60, 0x12] : List Byte).length := by decide

/-- A start of the frame of V8, and the cycles that carry it. -/
def v8Start : EncIn := ⟨true, 0x60, 2, false, 0, false⟩
def v8Cycles : List EncIn :=
  [⟨false, 0, 0, true, 0, true⟩, ⟨false, 0, 0, true, 0, true⟩, ⟨false, 0, 0, true, 0x12, true⟩,
    ⟨false, 0, 0, true, 0x34, true⟩, ⟨false, 0, 0, true, 0, true⟩]

theorem test_witness_SerialEncoderEmitsTheFrame :
    EncRegs.reset.st = .idle ∧ v8Start.start = true ∧ v8Start.lenIn.toNat ≤ 125 ∧
    (encSerialize (encNext EncRegs.reset v8Start) v8Cycles).2.2.st = .idle := by decide

theorem test_witness_SerialEncoderFinishes :
    EncRegs.reset.st = .idle ∧ v8Start.start = true ∧ v8Start.lenIn.toNat ≤ 125 ∧
    v8Cycles.length = v8Start.lenIn.toNat + 3 ∧ ∀ x ∈ v8Cycles, x.oReady = true ∧ x.pValid = true := by decide

/-- Lengths 125 and 126, and a serializer at work. -/
theorem test_witness_SerialEncoderStarts :
    (EncIn.mk true 0x60 125 false 0 false).start = true ∧ (EncIn.mk true 0x60 125 false 0 false).lenIn.toNat ≤ 125 ∧
    125 < (EncIn.mk true 0x60 126 false 0 false).lenIn.toNat ∧
    State.reset.br.enc.st = .idle ∧ State.reset.ct.enc.st = .idle ∧
    (encCycle .encB v8Start State.reset).br.enc.st ≠ .idle ∧ (encCycle .encC v8Start State.reset).ct.enc.st ≠ .idle := by
  decide

theorem test_witness_DecoderSkipsGarbage : (0x00 : Byte) ≠ 0xA5 := by decide

theorem test_witness_DecoderRejectsAnUnknownIdentifier : (0x07 : Byte) ∉ Config.refcfg.ids := by decide

theorem test_witness_DecoderWaitsForTheWholeFrame :
    Config.refcfg.lookup 0x60 = some .telemetry ∧
    ([0xA5, 0x60, 0x12, 0x34] : List Byte).length < Kind.telemetry.plen + 3 := by decide

theorem test_witness_DecoderRejectsABadChecksum :
    Config.refcfg.lookup 0x60 = some .telemetry ∧ ([0x12, 0x34] : List Byte).length = Kind.telemetry.plen ∧
    (0xA7 : Byte) ≠ sum8 [0x60, 0x12, 0x34] := by decide

theorem test_witness_DecoderReturnsAValidFrame :
    Config.refcfg.lookup 0x50 = some .ping ∧ ([] : List Byte).length = Kind.ping.plen ∧
    Config.refcfg.lookup 0x60 = some .telemetry ∧ ([0x12, 0x34] : List Byte).length = Kind.telemetry.plen := by decide

theorem test_witness_DecodeOfEncodeIsTheFrame :
    Config.refcfg.idsDistinct = true ∧ (Instr.telem 0xA5 0x50).decodable = true ∧
    Config.refcfg.lookup 0x60 = some .telemetry ∧ ([0xA5, 0x50] : List Byte).length = Kind.telemetry.plen := by decide

theorem test_witness_RunLeavesAQuiescentDecoder : decodeStep Config.refcfg [0xA5, 0x07] ≠ .needMore := by decide

theorem test_witness_NotificationFormRoundTrips :
    (Instr.telemNotify 1 2 [3, 4, 5, 6]).wf Config.refcfg = true ∧
    decodeStep Config.refcfg [0xA5, 0x50, 0x50] = .frame .ping := by decide

theorem test_witness_DecoderResynchronises :
    Config.refcfg.idsDistinct = true ∧ Instr.liftBrake.decodable = true ∧ (0xA5 : Byte) ∉ ([0x00, 0xFF, 0x17] : List Byte) := by
  decide

theorem test_witness_DecoderIsRestartable : decodeStep Config.refcfg [0xA5, 0x60, 0x2D] = .needMore := by decide

theorem test_witness_BrakeBlockDecodesToTwoBrakes : Config.refcfg.idsDistinct = true := by decide

/-- The reset machine with `dec_blk`'s byte-serial buffer holding these bytes, and the flush as configured. -/
def buffered (bs : List Byte) (flush : Bool) : State :=
  { State.resetAt { Config.refcfg with decFlushAtBlockEnd := flush } 0 0 with ct := { Controller.reset with serBlk := bs } }

/-- The default never flushes; a wait with and without a flush; and each outcome of a step. -/
theorem test_witness_SerialDecoderAgreesWithRun :
    ([0xA5, 0x60, 0x12, 0x34, 0xA6] : List Byte).length ≤ 5 ∧
    (∀ x ∈ [DecIn.mk true 0x00 true, DecIn.mk false 0x00 true],
      ¬ (x.flush = true ∧ Config.refcfg.decFlushAtBlockEnd = true ∧ DecSel.decUart = .decBlk)) ∧
    decodeStep (buffered [0xA5] true).cfg ((buffered [0xA5] true).ct.serBuf .decBlk) = .needMore ∧
    (buffered [0xA5] true).cfg.decFlushAtBlockEnd = true ∧ (buffered [0xA5] true).ct.serBuf .decBlk ≠ [] ∧
    decodeStep (buffered [] false).cfg ((buffered [] false).ct.serBuf .decBlk) = .needMore ∧
    decodeStep (buffered [0x00] false).cfg ((buffered [0x00] false).ct.serBuf .decBlk) = .skipped 0x00 ∧
    decodeStep (buffered [0xA5, 0x07] false).cfg ((buffered [0xA5, 0x07] false).ct.serBuf .decBlk) = .unknownId 0x07 ∧
    decodeStep (buffered [0xA5, 0x50, 0x51] false).cfg ((buffered [0xA5, 0x50, 0x51] false).ct.serBuf .decBlk)
      = .badChecksum 0x50 ∧
    decodeStep (buffered [0xA5, 0x60, 0x12, 0x34, 0xA6] false).cfg
      ((buffered [0xA5, 0x60, 0x12, 0x34, 0xA6] false).ct.serBuf .decBlk) = .frame (.telem 0x12 0x34) ∧
    decodeStep (buffered [0xA5, 0x50, 0x50] false).cfg ((buffered [0xA5, 0x50, 0x50] false).ct.serBuf .decBlk)
      = .frame .ping ∧ Instr.ping.payload = [] := by decide

theorem test_witness_StepPerformsTheNextStimulus :
    State.reset.cfg.wf = true ∧ (uart [0x00]).env.inputs ≠ [] ∧ State.reset.env.inputs = [] ∧
    State.reset.br.evtPc = .idle ∧ State.reset.br.evtQ = [] ∧ State.reset.ct.cSt = .poll ∧ State.reset.ct.inflight = [] ∧
    State.reset.env.pins.uartIn = [] := by decide

/-- The reset machine with these bytes delivered by the UART at this poll. -/
def delivered (bs : List Byte) : State :=
  { State.reset with env := { State.reset.env with pins := { Pins.quiet with uartIn := bs } } }

theorem test_witness_UartPollExecutesTheDecodedFrame :
    (delivered [0xA5, 0x50, 0x50]).ct.cSt = .poll ∧ (delivered [0xA5, 0x50, 0x50]).ct.inflight = [] ∧
    (delivered [0xA5, 0x50, 0x50]).env.pins.uartIn ≠ [] ∧
    (run .refcfg (feed (delivered [0xA5, 0x50, 0x50]).ct.decUart [0xA5, 0x50, 0x50])).frames = [.ping] ∧
    (delivered [0x00, 0xA5]).ct.cSt = .poll ∧ (delivered [0x00, 0xA5]).ct.inflight = [] ∧
    (delivered [0x00, 0xA5]).env.pins.uartIn ≠ [] ∧
    (run .refcfg (feed (delivered [0x00, 0xA5]).ct.decUart [0x00, 0xA5])).frames = [] := by decide

theorem test_witness_StepRunsTheFrameItReads :
    (uart [0xA5, 0x50, 0x50]).cfg.wf = true ∧ Instr.ping.decodable = true ∧
    (uart [0xA5, 0x50, 0x50]).env.inputs = .run .uart { Pins.quiet with uartIn := [0xA5, 0x50, 0x50] } :: [] ∧
    [0xA5, 0x50, 0x50] = encode (uart [0xA5, 0x50, 0x50]).cfg .ping ∧
    (uart [0xA5, 0x50, 0x50]).ct.cSt = .poll ∧ (uart [0xA5, 0x50, 0x50]).ct.inflight = [] ∧
    (uart [0xA5, 0x50, 0x50]).ct.decUart = [] := by decide

/-- The reset controller with a received block to decode, and the flush as configured. -/
def received (b : Block) (flush : Bool) : State :=
  { State.resetAt { Config.refcfg with decFlushAtBlockEnd := flush } 0 0 with
    ct := { Controller.reset with cRx := b, cSt := .decode } }

/-- With a frame and a pending tail that is flushed; and without a frame. -/
theorem test_witness_BlockDecodeExecutesTheFirstFrame :
    (received [0xA5, 0x50, 0x50, 0xA5] true).ct.cSt = .decode ∧ (received [0xA5, 0x50, 0x50, 0xA5] true).ct.inflight = [] ∧
    (run .refcfg [0xA5, 0x50, 0x50, 0xA5]).frames = [.ping] ∧ (run .refcfg [0xA5, 0x50, 0x50, 0xA5]).pend ≠ [] ∧
    (run .refcfg [0x00]).frames = [] := by decide

theorem test_witness_FramesInFlightExecuteInOrder :
    ({ State.reset with ct := { Controller.reset with inflight := [.ping] } } : State).ct.inflight ≠ [] := by decide

theorem test_witness_StepSendsTheGatedNotification :
    (State.reset.withFetchWord 72 0xA56012340064012C37).cfg.wf = true ∧
    (State.reset.withFetchWord 72 0xA56012340064012C37).env.inputs = .run .bml .quiet :: [] ∧
    (State.reset.withFetchWord 72 0xA56012340064012C37).br.bmlPc = .send 0x12 0x34 [0x00, 0x64, 0x01, 0x2C] := by decide

theorem test_witness_ReceivedBrakeBlockBrakesBothChannels :
    (received (brakeBlock .refcfg) false).cfg.idsDistinct = true ∧ (received (brakeBlock .refcfg) false).ct.cSt = .decode ∧
    (received (brakeBlock .refcfg) false).ct.inflight = [] ∧ (received (brakeBlock .refcfg) false).ct.decBlk = [] ∧
    (received (brakeBlock .refcfg) false).ct.cRx = brakeBlock (received (brakeBlock .refcfg) false).cfg :=
  ⟨by decide, rfl, rfl, rfl, rfl⟩

/-- The connected bridge with capacity 1, this queue, and this event arrived. -/
def arrived (q : List Block) (e : Event) : State :=
  { connected with cfg := { Config.refcfg with queueCap := 1 }, br := { connected.br with q := q, evtQ := [e] } }

theorem test_witness_PayloadIsEnqueuedAsOneBlock :
    (arrived [] (.wirelessRx [])).br.evtPc = .idle ∧ (arrived [] (.wirelessRx [])).br.evtQ = .wirelessRx [] :: [] ∧
    (arrived [] (.wirelessRx [])).br.q.length < (arrived [] (.wirelessRx [])).cfg.queueCap := by decide

theorem test_witness_FullQueueLatchesTheOverflowTrigger :
    (arrived [[]] (.wirelessRx [])).br.evtPc = .idle ∧ (arrived [[]] (.wirelessRx [])).br.evtQ = .wirelessRx [] :: [] ∧
    (arrived [[]] (.wirelessRx [])).br.q.length = (arrived [[]] (.wirelessRx [])).cfg.queueCap := by decide

theorem test_witness_ConnectWritesConnThenLink :
    (arrived [] (.connect 9)).br.evtPc = .idle ∧ (arrived [] (.connect 9)).br.evtQ = .connect 9 :: [] := by decide

theorem test_witness_DisconnectLatchesBeforeItClears :
    (arrived [] .disconnect).br.evtPc = .idle ∧ (arrived [] .disconnect).br.evtQ = .disconnect :: [] ∧
    (arrived [] .disconnect).br.link = .connected := by decide

/-- The reset machine at this time. -/
def atTime (now : Nat) : State := { State.reset with env := { State.reset.env with now := now } }

/-- The queue wait of 100 ends at 100, not at 99; a queued entry needs no wait. -/
theorem test_witness_PreparationTakesTheEntryOrBrakes :
    (atTime 100).br.pSt = .wait ∧ (atTime 100).br.bmlPc = .idle ∧
    (atTime 100).cfg.queueWaitTimeout ≤ (atTime 100).env.now - (atTime 100).br.waitT0 ∧
    (atTime 99).br.q = [] ∧ (atTime 99).env.now - (atTime 99).br.waitT0 < (atTime 99).cfg.queueWaitTimeout ∧
    (arrived [[]] .disconnect).br.q ≠ [] := by decide

/-- An overflow with the queue at its capacity, and a disconnect with an entry queued. -/
theorem test_witness_LatchedTriggerMakesTheNextBlockABrakeBlock :
    (arrived [[]] (.wirelessRx [])).br.evtPc = .idle ∧ (arrived [[]] (.wirelessRx [])).br.evtQ = [.wirelessRx []] ∧
    (arrived [[]] (.wirelessRx [])).br.pSt = .wait ∧ (arrived [[]] (.wirelessRx [])).br.bmlPc = .idle ∧
    (arrived [[]] (.wirelessRx [])).br.q.length = (arrived [[]] (.wirelessRx [])).cfg.queueCap ∧
    1 ≤ (arrived [[]] (.wirelessRx [])).cfg.queueCap ∧
    (arrived [[]] .disconnect).br.evtQ = [.disconnect] ∧ (arrived [[]] .disconnect).br.link = .connected ∧
    (arrived [[]] .disconnect).br.q ≠ [] := by decide

/-- The bridge in P_PREPARED. -/
def prepared : State := { State.reset with br := { State.reset.br with pSt := .prepared } }

theorem test_witness_ReadyLevelCrossesInTwoEdges :
    2 ≤ ({ Pins.quiet with clkC := 2 } : Pins).clkC ∧ ({ Pins.quiet with clkC := 1 } : Pins).clkC = 1 ∧
    Pins.quiet.clkC = 0 := by decide

/-- Ready asserted at time 0, seen by the controller, now at this time with these draws. -/
def announced (composed : Bool) (now : Nat) (p : Pins) : State :=
  { State.reset with
    br := { State.reset.br with pSt := .ready, ready := true }
    ct := { Controller.reset with rdyMeta := true, rdySync := true, composed := composed }
    env := { State.reset.env with now := now, pins := p } }

theorem test_witness_ConsumerComposesItsTelemetryBlock :
    (announced false 0 .quiet).ct.cSt = .poll ∧ (announced false 0 .quiet).ct.inflight = [] ∧
    (announced false 0 .quiet).ct.composed = false ∧ (announced false 0 .quiet).ct.rdySync = true ∧
    (announced false 0 .quiet).br.ready = true ∧ (announced false 0 .quiet).env.pins.telemIn = none ∧
    (announced false 0 { Pins.quiet with telemIn := some (1, 2) }).env.pins.telemIn = some (1, 2) ∧
    (announced true 0 .quiet).ct.composed = true ∧ State.reset.ct.rdySync = false ∧ State.reset.br.ready = false ∧
    (received [] false).ct.cSt ≠ .poll := by decide

theorem test_witness_ExchangeSwapsTheBlocksOrFails :
    (announced true 0 .quiet).br.pSt = .ready ∧ (announced true 0 .quiet).br.ready = true ∧
    (announced true 0 .quiet).ct.cSt = .poll ∧ (announced true 0 .quiet).ct.inflight = [] ∧
    (announced true 0 .quiet).ct.composed = true ∧ (announced true 0 .quiet).env.pins.xferOk = true ∧
    (announced true 0 { Pins.quiet with xferOk := false }).env.pins.xferOk = false ∧
    (announced false 0 .quiet).ct.composed = false := by decide

/-- A drawn failure, and the timeout of 100 at time 100, not at 99. -/
theorem test_witness_FailedExchangeDeliversNothing :
    (announced true 0 { Pins.quiet with xferOk := false }).br.pSt = .ready ∧
    (announced true 0 { Pins.quiet with xferOk := false }).br.ready = true ∧
    (announced true 0 { Pins.quiet with xferOk := false }).br.bmlPc = .idle ∧
    (announced true 0 { Pins.quiet with xferOk := false }).ct.cSt = .poll ∧
    (announced true 0 { Pins.quiet with xferOk := false }).ct.inflight = [] ∧
    (announced true 0 { Pins.quiet with xferOk := false }).ct.composed = true ∧
    (announced true 0 { Pins.quiet with xferOk := false }).env.pins.xferOk = false ∧
    (announced false 100 .quiet).cfg.xferTimeout ≤ (announced false 100 .quiet).env.now - (announced false 100 .quiet).br.xferT0 ∧
    (announced false 99 .quiet).env.now - (announced false 99 .quiet).br.xferT0 < (announced false 99 .quiet).cfg.xferTimeout := by
  decide

theorem test_witness_OutboundPathLooksForTelemetry :
    (posted []).br.pSt = .post ∧ (posted []).br.bmlPc = .idle ∧ (posted []).br.bRx.getD 0 0 ≠ 0xA5 ∧
    (posted [0xA5, 0x50]).br.bRx.getD 1 0 ≠ 0x60 ∧ State.reset.br.xferOk = false ∧
    (posted [0xA5, 0x60]).br.pSt = .post ∧ (posted [0xA5, 0x60]).br.bmlPc = .idle ∧ (posted [0xA5, 0x60]).br.xferOk = true ∧
    (posted [0xA5, 0x60]).br.bRx.getD 0 0 = 0xA5 ∧ (posted [0xA5, 0x60]).br.bRx.getD 1 0 = 0x60 := by decide

/-- A notification at each of the gate's three reads. -/
def gated (f : GateField) (s : State) : State := { s with br := { s.br with pSt := .post, bmlPc := .gate f 0x12 0x34 [] } }

/-- The three reads, each passing and failing. -/
theorem test_witness_GateDecidesWhetherTelemetryIsSent :
    (gated .link connected).br.bmlPc = .gate .link 0x12 0x34 [] ∧ gateReads .link (gated .link connected) = true ∧
    gateReads .link (gated .link State.reset) = false ∧
    (gated .interval connected).br.bmlPc = .gate .interval 0x12 0x34 [] ∧
    gateReads .interval (gated .interval (timed (some 0) none 100)) = true ∧
    gateReads .interval (gated .interval (timed (some 0) none 99)) = false ∧
    (gated .backoff connected).br.bmlPc = .gate .backoff 0x12 0x34 [] ∧
    gateReads .backoff (gated .backoff (timed none (some 9) 9)) = true ∧
    gateReads .backoff (gated .backoff (timed none (some 9) 8)) = false := by decide

theorem test_witness_AuxiliaryReadingsAreBigEndian : 65535 < 256 ^ 2 ∧ beBytes 2 300 = [0x01, 0x2C] := by decide

theorem test_witness_NotificationEchoesTheTelemetry :
    (posted [0xA5, 0x60]).br.pSt = .post ∧ (posted [0xA5, 0x60]).br.bmlPc = .idle ∧ (posted [0xA5, 0x60]).br.xferOk = true ∧
    5 ≤ (posted [0xA5, 0x60]).br.bRx.length ∧ (posted [0xA5, 0x60]).br.bRx.getD 0 0 = 0xA5 ∧
    (posted [0xA5, 0x60]).br.bRx.getD 1 0 = 0x60 ∧ (posted [0xA5, 0x60]).cfg.auxLen ≤ 123 ∧
    maySend (posted [0xA5, 0x60]) = true ∧ (posted [0xA5, 0x60]).br.conn = some 7 ∧
    (posted [0xA5, 0x60]).env.pins.sendOk = true :=
  ⟨rfl, rfl, rfl, by simp [posted, blockSize], rfl, rfl, by decide, by decide, rfl, rfl⟩

theorem test_witness_ResetIsSound : Config.refcfg.wf = true := by decide

/-- The reset state is sound. -/
theorem test_reset_inv : State.reset.Inv := by
  have hr : EncRegs.reset.Ok := by constructor <;> simp [EncRegs.reset]
  constructor <;> simp [State.reset, State.resetAt, Bridge.resetAt, Controller.reset, hr, BmlPc.Fits, decodeStep]

theorem test_witness_EveryStepKeepsTheStateSound :
    (uart [0xA5, 0x50, 0x50]).Inv ∧ ∃ t, step (uart [0xA5, 0x50, 0x50]) = .next t := ⟨{ test_reset_inv with }, _, rfl⟩

theorem test_witness_NoStepStops : State.reset.cfg.wf = true ∧ State.reset.Inv := ⟨by decide, test_reset_inv⟩

theorem test_witness_TimeConfigurationAndOutputGoForward : ∃ t, step (uart [0xA5, 0x50, 0x50]) = .next t := ⟨_, rfl⟩

theorem test_witness_OnlyTheOwnerWrites : State.reset.Inv ∧ ∃ t, runAgent .evt State.reset = .next t :=
  ⟨test_reset_inv, _, rfl⟩

/-- A machine in P_PREPARED is sound. -/
theorem test_prepared_inv : prepared.Inv :=
  { test_reset_inv with
    readyIff := by simp [prepared, State.reset, State.resetAt, Bridge.resetAt]
    bmlFits := trivial
    xferOkPost := by simp [prepared, State.reset, State.resetAt, Bridge.resetAt] }

/-- The bridge in P_POST, about to run its outbound path. -/
def posting : State := withInputs [.run .bml .quiet] { prepared with br := { prepared.br with pSt := .post } }

theorem test_witness_PreparedBlockIsAnnouncedAndHeld :
    prepared.br.pSt = .prepared ∧ prepared.br.bmlPc = .idle ∧
    (withInputs [.run .bml .quiet] prepared).Inv ∧ (withInputs [.run .bml .quiet] prepared).br.pSt = .prepared ∧
    nextStim (withInputs [.run .bml .quiet] prepared) ≠ .resetBridge ∧
    (∃ t, step (withInputs [.run .bml .quiet] prepared) = .next t) ∧
    posting.Inv ∧ posting.br.pSt = .post ∧ nextStim posting ≠ .resetBridge ∧ ∃ t, step posting = .next t :=
  ⟨rfl, rfl, { test_prepared_inv with }, rfl, by decide, ⟨_, rfl⟩,
    { test_prepared_inv with
      readyIff := by simp [posting, withInputs, prepared, State.reset, State.resetAt, Bridge.resetAt]
      bmlFits := trivial
      xferOkPost := fun _ => rfl }, rfl, by decide, _, rfl⟩

/-- A payload received, and a queued block taken. -/
theorem test_witness_QueueChangesOnlyAtItsEnds :
    (∃ t, step (withInputs [.run .evt .quiet] (arrived [] (.wirelessRx []))) = .next t) ∧
    nextStim (withInputs [.run .evt .quiet] (arrived [] (.wirelessRx []))) ≠ .resetBridge ∧
    (∃ t, step (withInputs [.run .bml .quiet] (arrived [zeros 1] .disconnect)) = .next t) ∧
    nextStim (withInputs [.run .bml .quiet] (arrived [zeros 1] .disconnect)) ≠ .resetBridge :=
  ⟨⟨_, rfl⟩, by decide, ⟨_, rfl⟩, by decide⟩

theorem test_witness_BlocksMoveOnlyUnderReady :
    (withInputs [.run .exchange .quiet] (announced true 0 .quiet)).ct.cSt = .poll ∧
    ∃ t, step (withInputs [.run .exchange .quiet] (announced true 0 .quiet)) = .next t ∧ t.ct.cSt = .decode :=
  ⟨rfl, _, rfl, rfl⟩

/-- Both triggers latched, the main loop about to consume them. -/
def triggered (pc : BmlPc) : State :=
  withInputs [.run .bml .quiet] { State.reset with br := { State.reset.br with discTrig := true, ovfTrig := true, bmlPc := pc } }

theorem test_witness_LatchedTriggersAreNeverLost :
    (∃ t, step (triggered .takeDisc) = .next t) ∧ nextStim (triggered .takeDisc) ≠ .resetBridge ∧
    (triggered .takeDisc).br.discTrig = true ∧ (triggered .takeDisc).br.ovfTrig = true ∧
    (∃ t, step (triggered (.takeOvf true)) = .next t) ∧ (∃ t, step (triggered (.override false true)) = .next t) ∧
    ∃ t, step (triggered .prepDone) = .next t :=
  ⟨⟨_, rfl⟩, by decide, rfl, rfl, ⟨_, rfl⟩, ⟨_, rfl⟩, _, rfl⟩

/-- A backoff window to 3000, at 2999. -/
def backedOff : State := withInputs [.run .bml .quiet] (timed (some 1000) (some 3000) 2999)

theorem test_witness_NoSendDuringBackoff :
    backedOff.Inv ∧ nextStim backedOff ≠ .resetBridge ∧ backedOff.br.backoffDeadline = some 3000 ∧
    ∃ t, step backedOff = .next t ∧ t.env.now < 3000 := by
  refine ⟨{ test_reset_inv with
    linkHasConn := by simp [backedOff, withInputs, timed, connected]
    setLinkHasConn := by simp [backedOff, withInputs, timed, connected]
    clearConnDown := by simp [backedOff, withInputs, timed, connected, State.reset, State.resetAt, Bridge.resetAt]
    waitPast := Nat.zero_le _
    xferPast := Nat.zero_le _
    lastSendPast := by simp [backedOff, withInputs, timed]
    backoffBounded := by simp [backedOff, withInputs, timed, connected, State.reset, State.resetAt, Config.refcfg]
    sendUngated := by simp [backedOff, withInputs, timed, connected, State.reset, State.resetAt, Bridge.resetAt] },
    by decide, rfl, _, rfl, by decide⟩

theorem test_witness_OnlyDispatchedFramesMoveActuators :
    nextStim (uart [0xA5, 0x32, 0x32]) ≠ .resetController ∧
    ∃ t, step (uart [0xA5, 0x32, 0x32]) = .next t ∧ t.ct.actLast .lift = some .brake := ⟨by decide, _, rfl, rfl⟩

end Sys2Proof.Tests
end

section
/-! PROOFS. The scope statements (00_scope.md): what a step performs, and what no step takes back. -/

namespace Sys2Proof.Machine

/-! ## Steps that only append to the trace -/

/-- From `s` to `t` the configuration and the environment stay and the trace grows at its end: what every step of an agent
and every clock cycle guarantees. -/
structure AppendsOnly (s t : State) : Prop where
  cfg : t.cfg = s.cfg
  env : t.env = s.env
  trace : s.trace <+: t.trace

theorem AppendsOnly.refl (s : State) : AppendsOnly s s := ⟨rfl, rfl, List.prefix_rfl⟩

theorem CmlFrame.appendsOnly {f : Option Instr} {s t : State} (h : CmlFrame f s t) : AppendsOnly s t := by
  obtain ⟨l, e⟩ := h.trace
  exact ⟨h.cfg, h.env, l, e.symm⟩

theorem evtStep_appendsOnly (s : State) : AppendsOnly s (evtStep s) := by
  obtain ⟨q, o, d, k, c, es, pc, l, e, -⟩ := evtStep_frame s
  rw [e]
  exact ⟨rfl, rfl, l, rfl⟩

theorem failExchange_appendsOnly (s : State) : AppendsOnly s (failExchange s) := by
  obtain ⟨b, c, -, -, e⟩ := failExchange_shape s
  rw [e]
  exact ⟨rfl, rfl, _, rfl⟩

theorem failInitiated_appendsOnly (s : State) : AppendsOnly s (failInitiated s) where
  cfg := rfl
  env := rfl
  trace := (failExchange_appendsOnly s).trace.trans ⟨_, (failInitiated_trace s).symm⟩

theorem exchangeStep_appendsOnly {s t : State} (h : exchangeStep s = .next t) : AppendsOnly s t := by
  obtain ⟨-, rfl⟩ | ⟨-, -, -, rfl⟩ | ⟨-, -, -, rfl⟩ := exchangeStep_cases h
  · exact .refl _
  · exact ⟨rfl, rfl, List.prefix_rfl⟩
  · exact failInitiated_appendsOnly s

theorem composeStep_appendsOnly (s : State) : AppendsOnly s (composeStep s) := by
  obtain e | ⟨b, -, -, -, e⟩ := composeStep_shape s <;> rw [e]
  · exact .refl s
  · exact ⟨rfl, rfl, List.prefix_rfl⟩

/-- The rules of `BML` that put something out are the failed exchange, P_POST and the send; the others keep the trace. -/
theorem bmlStep_appendsOnly {s t : State} (h : bmlStep s = .next t) : AppendsOnly s t := by
  obtain rfl | ⟨-, -, rfl⟩ | ⟨-, -, rfl⟩ | ⟨-, -, rfl⟩ | ⟨-, -, l, d1, d2, -, rfl⟩ | ⟨-, -, l, -, rfl⟩ | ⟨-, rfl⟩ |
    ⟨d, -, rfl⟩ | ⟨d, o, -, -, -, -, rfl⟩ | ⟨d, o, -, -, rfl⟩ | ⟨-, rfl⟩ | ⟨d1, d2, aux, a, b, l, -, rfl⟩ | ⟨-, rfl⟩ |
    ⟨f, d1, d2, aux, -, rfl | ⟨-, rfl⟩⟩ := bmlStep_cases h
  · exact .refl _
  · exact ⟨rfl, rfl, List.prefix_rfl⟩
  · exact ⟨rfl, rfl, List.prefix_rfl⟩
  · exact failExchange_appendsOnly s
  · exact ⟨rfl, rfl, l, rfl⟩
  · exact ⟨rfl, rfl, l, rfl⟩
  · exact ⟨rfl, rfl, List.prefix_rfl⟩
  · exact ⟨rfl, rfl, List.prefix_rfl⟩
  · exact ⟨rfl, rfl, List.prefix_rfl⟩
  · exact ⟨rfl, rfl, List.prefix_rfl⟩
  · exact ⟨rfl, rfl, List.prefix_rfl⟩
  · exact ⟨rfl, rfl, l, rfl⟩
  · exact ⟨rfl, rfl, List.prefix_rfl⟩
  · exact ⟨rfl, rfl, List.prefix_rfl⟩
  · exact ⟨rfl, rfl, List.prefix_rfl⟩

/-- One atomic step of any agent. -/
theorem runAgent_appendsOnly {a : Agent} {s t : State} (h : runAgent a s = .next t) : AppendsOnly s t := by
  cases a with
  | evt => obtain rfl := Host.Outcome.next.inj h; exact evtStep_appendsOnly s
  | bml => exact bmlStep_appendsOnly h
  | exchange => exact exchangeStep_appendsOnly h
  | compose => obtain rfl := Host.Outcome.next.inj h; exact composeStep_appendsOnly s
  | cml => exact (cmlStep_frame h).1.appendsOnly
  | uart => exact (uartStep_frame h).1.appendsOnly

theorem encCycle_appendsOnly (e : EncSel) (i : EncIn) (s : State) : AppendsOnly s (encCycle e i s) := by
  cases e <;> exact ⟨rfl, rfl, _, rfl⟩

theorem decCycle_appendsOnly (d : DecSel) (i : DecIn) (s : State) : AppendsOnly s (decCycle d i s) :=
  ⟨rfl, rfl, _, rfl⟩

/-! ## Time, configuration and output go forward -/

/-- From `s` to `t` no device's time goes back (R16, R307), the configuration stays (R45) and no output is withdrawn. -/
structure GoesForward (s t : State) : Prop where
  now : s.env.now ≤ t.env.now
  nowC : s.env.nowC ≤ t.env.nowC
  cfg : t.cfg = s.cfg
  trace : s.trace <+: t.trace

theorem AppendsOnly.goesForward {s t : State} (h : AppendsOnly s t) : GoesForward s t where
  now := by rw [h.env]
  nowC := by rw [h.env]
  cfg := h.cfg
  trace := h.trace

theorem GoesForward.trans {s t u : State} (h : GoesForward s t) (h' : GoesForward t u) : GoesForward s u where
  now := h.now.trans h'.now
  nowC := h.nowC.trans h'.nowC
  cfg := h'.cfg.trans h.cfg
  trace := h.trace.trans h'.trace

theorem latch_goesForward (p : Pins) (s : State) : GoesForward s (latch p s) := by constructor <;> simp

theorem takeStim_goesForward (s : State) : GoesForward s (takeStim s) := by constructor <;> simp

/-- Only the draws of an agent step move time; a reset keeps it, the configuration and the trace. -/
theorem perform_goesForward {x : Stim} {s t : State} (h : perform x s = .next t) : GoesForward s t := by
  cases x with
  | run a p => exact (latch_goesForward p s).trans (runAgent_appendsOnly h).goesForward
  | arrive e => obtain rfl := Host.Outcome.next.inj h; exact ⟨le_rfl, le_rfl, rfl, List.prefix_rfl⟩
  | resetBridge => obtain rfl := Host.Outcome.next.inj h; exact ⟨le_rfl, le_rfl, rfl, List.prefix_rfl⟩
  | resetController => obtain rfl := Host.Outcome.next.inj h; exact ⟨le_rfl, le_rfl, rfl, List.prefix_rfl⟩
  | encClk e i => obtain rfl := Host.Outcome.next.inj h; exact (encCycle_appendsOnly e i s).goesForward
  | decClk d i => obtain rfl := Host.Outcome.next.inj h; exact (decCycle_appendsOnly d i s).goesForward

theorem step_goesForward {s t : State} (h : step s = .next t) : GoesForward s t :=
  (takeStim_goesForward s).trans (perform_goesForward (step_next h).2)

/-- Settles O53: taking the stimulus moves nothing, and performing it moves each of the four forward only. -/
theorem timeConfigurationAndOutputGoForward : Obligations.TimeConfigurationAndOutputGoForward := by
  intro s t h
  obtain ⟨hnow, hnowC, hcfg, htrace⟩ := step_goesForward h
  exact ⟨hnow, hnowC, hcfg, htrace⟩

/-! ## The next stimulus -/

theorem nextStim_supplied {s : State} {x : Stim} {xs : List Stim} (h : s.env.inputs = x :: xs) : nextStim s = x := by
  simp [nextStim, h]

theorem takeStim_supplied {s : State} {x : Stim} {xs : List Stim} (h : s.env.inputs = x :: xs) :
    takeStim s = { s with env := { s.env with inputs := xs } } := by
  simp [takeStim, h]

theorem nextStim_free {s : State} (h : s.env.inputs = []) : nextStim s = Config.freeStim s.env.draws := by
  simp [nextStim, h]

theorem takeStim_free {s : State} (h : s.env.inputs = []) :
    takeStim s = { s with env := { s.env with draws := s.env.draws + 1 } } := by
  simp [takeStim, h]

/-! ## Agents with nothing to do -/

/-- R293: no handler is running and no event waits. -/
theorem evtStep_of_no_event {s : State} (hpc : s.br.evtPc = .idle) (hq : s.br.evtQ = []) : evtStep s = s := by
  simp [evtStep, hpc, hq]

/-- R212: nothing to decode and nothing to dispatch. -/
theorem cmlStep_of_poll {s : State} (hc : s.ct.cSt = .poll) (hf : s.ct.inflight = []) : cmlStep s = .next s := by
  simp [cmlStep, hc, hf]

/-- R213: the UART source is polled in C_POLL only, with nothing in flight and something delivered. -/
theorem uartStep_of_not_enabled {s : State} (h : s.ct.cSt ≠ .poll ∨ s.ct.inflight ≠ [] ∨ s.env.pins.uartIn = []) :
    uartStep s = .next s := by
  have hguard : ¬ (s.ct.cSt = .poll ∧ s.ct.inflight = [] ∧ s.env.pins.uartIn ≠ []) := by
    rintro ⟨hc, hf, hu⟩
    exact h.elim (· hc) fun h => h.elim (· hf) hu
  simp [uartStep, hguard]

/-- Settles O26: a step performs `nextStim`, whose two cases are the first two clauses; an arrival is `perform`'s own
case; the rest are the idle steps of the three agents. -/
theorem stepPerformsTheNextStimulus : Obligations.StepPerformsTheNextStimulus := by
  intro s
  refine ⟨fun hwf x xs hin => ?_, fun hwf hin => ?_, fun e => rfl, fun hpc hq => ?_, cmlStep_of_poll, uartStep_of_not_enabled⟩
  · rw [step_eq s hwf, nextStim_supplied hin, takeStim_supplied hin]
  · rw [step_eq s hwf, nextStim_free hin, takeStim_free hin]
  · exact congrArg Host.Outcome.next (evtStep_of_no_event hpc hq)

end Sys2Proof.Machine
end

section
/-! PROOFS. The state statements (10_state.md): the ready line's crossing (R39), and the invariant (R48) after reset and
over every step. -/

namespace Sys2Proof.Machine

/-! ## The ready line's synchroniser -/

/-- The last of several edges, singled out. -/
theorem syncEdges_succ (n : Nat) (s : State) : syncEdges (n + 1) s = syncEdge (syncEdges n s) := by
  induction n generalizing s with
  | zero => rfl
  | succ n ih => exact ih (syncEdge s)

theorem syncEdges_succ_rdyMeta (n : Nat) (s : State) : (syncEdges (n + 1) s).ct.rdyMeta = s.br.ready := by
  rw [syncEdges_succ, syncEdge_ct_rdyMeta, syncEdges_br]

theorem syncEdges_succ_rdySync (n : Nat) (s : State) :
    (syncEdges (n + 1) s).ct.rdySync = (syncEdges n s).ct.rdyMeta := by
  rw [syncEdges_succ, syncEdge_ct_rdySync]

/-- Settles O39: each edge moves the first flop's value to the second and the level to the first, so the last two edges
decide. -/
theorem readyLevelCrossesInTwoEdges : Obligations.ReadyLevelCrossesInTwoEdges := by
  intro p s
  refine ⟨fun hn => ?_, fun hn => ?_, fun hn => ?_⟩
  · obtain ⟨n, hn⟩ := Nat.exists_eq_add_of_le' hn
    rw [latch, hn, syncEdges_succ_rdySync, syncEdges_succ_rdyMeta]
  · rw [latch, hn]
    exact ⟨syncEdges_succ_rdySync 0 _, syncEdges_succ_rdyMeta 0 _⟩
  · rw [latch, hn, syncEdges]

/-! ## Reset -/

theorem EncRegs.Ok.reset : EncRegs.reset.Ok := by constructor <;> simp [EncRegs.reset]

/-- The reset state is sound, whatever the configuration. -/
theorem State.Inv.resetAt (c : Config) (t tC : Nat) : (State.resetAt c t tC).Inv where
  queueFits := Nat.zero_le _
  entriesWhole := nofun
  bTxWhole := length_zeros _
  bRxWhole := length_zeros _
  cTxWhole := length_zeros _
  cRxWhole := length_zeros _
  readyIff := by simp [State.resetAt, Bridge.resetAt]
  linkHasConn := nofun
  blkQuiet := rfl
  uartQuiet := rfl
  setLinkHasConn := nofun
  clearConnDown := nofun
  bmlFits := trivial
  xferOkPost := nofun
  composedReady := nofun
  inflightDecodable := nofun
  waitPast := le_rfl
  xferPast := le_rfl
  lastSendPast := nofun
  backoffBounded := nofun
  sendUngated := nofun
  encBOk := .reset
  encCOk := .reset
  serBlkFits := Nat.zero_le _
  serUartFits := Nat.zero_le _

/-- Settles O50: the reset state is sound under any configuration, so under an admissible one. -/
theorem resetIsSound : Obligations.ResetIsSound := fun c t tC _ => .resetAt c t tC

/-- Reset of the bridge: its own part of the invariant is the reset state's, the controller's is kept. -/
theorem State.Inv.resetBridge {s : State} (h : s.Inv) : (resetBridge s).Inv :=
  { State.Inv.resetAt s.cfg s.env.now s.env.nowC with
    cTxWhole := h.cTxWhole
    cRxWhole := h.cRxWhole
    blkQuiet := h.blkQuiet
    uartQuiet := h.uartQuiet
    composedReady := nofun
    inflightDecodable := h.inflightDecodable
    encCOk := h.encCOk
    serBlkFits := h.serBlkFits
    serUartFits := h.serUartFits }

/-- Reset of the controller: its own part of the invariant is the reset state's, the bridge's is kept. -/
theorem State.Inv.resetController {s : State} (h : s.Inv) : (resetController s).Inv :=
  have r := State.Inv.resetAt s.cfg s.env.now s.env.nowC
  { h with
    cTxWhole := r.cTxWhole
    cRxWhole := r.cRxWhole
    blkQuiet := r.blkQuiet
    uartQuiet := r.uartQuiet
    composedReady := nofun
    inflightDecodable := r.inflightDecodable
    encCOk := r.encCOk
    serBlkFits := r.serBlkFits
    serUartFits := r.serUartFits }

/-! ## The main loop, rule by rule -/

theorem State.Inv.fits {s : State} (h : s.Inv) {pc : BmlPc} (hpc : s.br.bmlPc = pc) : pc.Fits s.cfg s.br.pSt :=
  hpc ▸ h.bmlFits

/-- `BML`'s control may move to any point that fits `p_st`, and to the send only outside a backoff window. -/
theorem State.Inv.goto {s : State} (h : s.Inv) {pc : BmlPc} (hfits : pc.Fits s.cfg s.br.pSt)
    (hsend : ∀ d1 d2 aux, pc = .send d1 d2 aux → ∀ t, s.br.backoffDeadline = some t → t ≤ s.env.now) :
    (s.goto pc).Inv :=
  { h with bmlFits := hfits, sendUngated := hsend }

theorem State.Inv.loaded {s : State} (h : s.Inv) :
    State.Inv { s with br := { s.br with q := s.br.q.tail, bTx := s.br.q.headD (zeros blockSize) } } :=
  { h with
    queueFits := (List.tail_sublist _).length_le.trans h.queueFits
    entriesWhole := fun e he => h.entriesWhole e (List.mem_of_mem_tail he)
    bTxWhole := by
      show (s.br.q.headD (zeros blockSize)).length = blockSize
      cases hq : s.br.q with
      | nil => exact length_zeros _
      | cons e q => exact h.entriesWhole e (by simp [hq]) }

/-- From P_WAIT the block becomes prepared: no exchange has completed in this cycle, and ready is low. -/
theorem State.Inv.prepared {s : State} (h : s.Inv) (hp : s.br.pSt = .wait) :
    State.Inv { s with br := { s.br with pSt := .prepared, bmlPc := .idle } } :=
  { h with
    readyIff := by simp [h.notReady (by simp [hp])]
    bmlFits := trivial
    xferOkPost := fun hx => by simp [h.xferOkPost hx] at hp
    sendUngated := nofun }

theorem State.Inv.assertReady {s : State} (h : s.Inv) (hpc : s.br.bmlPc = .idle) (hp : s.br.pSt = .prepared) :
    (assertReady s).Inv :=
  { h with
    readyIff := by simp
    bmlFits := by rw [assertReady_br_bmlPc, hpc]; trivial
    xferOkPost := fun hx => by simp [h.xferOkPost hx] at hp
    composedReady := fun hc => ⟨rfl, (h.composedReady hc).2⟩
    xferPast := le_rfl }

/-- The gate's last read passes only outside a backoff window (R241). -/
theorem le_now_of_gateReads_backoff {s : State} (hg : gateReads .backoff s = true) :
    ∀ t, s.br.backoffDeadline = some t → t ≤ s.env.now := by
  intro t ht
  simpa [gateReads, backoffOver, ht] using hg

/-- Where a field of the gate passes, the notification goes on to the next field, or to the send. -/
theorem State.Inv.gatePassed {s : State} (h : s.Inv) {f : GateField} {d1 d2 : Byte} {aux : List Byte}
    (hpc : s.br.bmlPc = .gate f d1 d2 aux) (hg : gateReads f s = true) : (s.goto (gateNext d1 d2 aux f)).Inv := by
  have hfits : s.br.pSt = .post ∧ aux.length = s.cfg.auxLen := h.fits hpc
  cases f with
  | link => exact h.goto hfits nofun
  | interval => exact h.goto hfits nofun
  | backoff => exact h.goto hfits fun _ _ _ _ => le_now_of_gateReads_backoff hg

/-- In the send `BML`'s step is the meaning of the notification. -/
theorem bmlStep_of_send {s : State} {d1 d2 : Byte} {aux : List Byte} (hpc : s.br.bmlPc = .send d1 d2 aux) :
    bmlStep s = andThen (exec (.telemNotify d1 d2 aux) s) fun t => .next (t.goto .finish) := by
  simp [bmlStep, hpc]

/-- A step of `BML` keeps the invariant. -/
theorem State.Inv.bmlStep {s t : State} (h : s.Inv) (e : bmlStep s = .next t) : t.Inv := by
  obtain rfl | ⟨-, hp, rfl⟩ | ⟨hpc, hp, rfl⟩ | ⟨hpc, -, rfl⟩ | ⟨-, hp, l, d1, d2, -, rfl⟩ | ⟨-, hp, l, -, rfl⟩ |
    ⟨hpc, rfl⟩ | ⟨d, hpc, rfl⟩ | ⟨d, o, hpc, -, -, -, rfl⟩ | ⟨d, o, hpc, -, rfl⟩ | ⟨hpc, rfl⟩ |
    ⟨d1, d2, aux, -, -, -, hpc, -⟩ | ⟨hpc, rfl⟩ | ⟨f, d1, d2, aux, hpc, rfl | ⟨hg, rfl⟩⟩ := bmlStep_cases e
  · exact h
  -- P_WAIT, P_PREPARED, P_READY
  · exact h.loaded.goto (pc := .takeDisc) hp nofun
  · exact h.assertReady hpc hp
  · exact h.failExchange hpc
  -- P_POST: a notification goes to its gate, or the cycle ends
  · have h' : State.Inv { s with trace := s.trace ++ l } := { h with }
    exact h'.goto (pc := .gate _ _ _ _) ⟨hp, length_auxBytes _ _⟩ nofun
  · have h' : State.Inv { s with trace := s.trace ++ l } := { h with }
    exact h'.finishCycle (by simp [hp])
  -- the steps of the preparation, all in P_WAIT
  · have hp : s.br.pSt = .wait := h.fits hpc
    have h' : State.Inv { s with br := { s.br with discTrig := false } } := { h with }
    exact h'.goto (pc := .takeOvf _) hp nofun
  · have hp : s.br.pSt = .wait := h.fits hpc
    have h' : State.Inv { s with br := { s.br with ovfTrig := false } } := { h with }
    exact h'.goto (pc := .override _ _) hp nofun
  · have hp : s.br.pSt = .wait := h.fits hpc
    have h' : State.Inv { s with br := { s.br with bTx := brakeBlock s.cfg } } :=
      { h with bTxWhole := length_brakeBlock _ }
    exact h'.goto (pc := .prepDone) hp nofun
  · have hp : s.br.pSt = .wait := h.fits hpc
    exact h.goto (pc := .prepDone) hp nofun
  · exact h.prepared (h.fits hpc)
  -- the outbound path, in P_POST
  · rw [bmlStep_of_send hpc] at e
    obtain ⟨u, hexec, hgoto⟩ := andThen_eq_next e
    obtain rfl := Host.Outcome.next.inj hgoto
    exact h.sent hpc hexec
  · exact h.finishCycle (by simp [show s.br.pSt = .post from h.fits hpc])
  · exact h.finishCycle (by simp [(h.fits hpc).1])
  · exact h.gatePassed hpc hg

/-! ## The exchange -/

theorem pSt_of_exchangeEnabled {s : State} (h : exchangeEnabled s = true) : s.br.pSt = .ready := by
  simp only [exchangeEnabled, Bool.and_eq_true, decide_eq_true_eq] at h
  obtain ⟨⟨⟨hp, -⟩, -⟩, -⟩ := h
  exact hp

/-- The swap exchanges two whole blocks, and deasserts ready as the producer leaves P_READY (R206). -/
theorem State.Inv.completeExchange {s : State} (h : s.Inv) (hpc : s.br.bmlPc = .idle) : (completeExchange s).Inv :=
  { h with
    bRxWhole := h.cTxWhole
    cRxWhole := h.bTxWhole
    readyIff := by simp [Machine.completeExchange]
    bmlFits := by simp only [Machine.completeExchange, hpc]; trivial
    xferOkPost := fun _ => rfl
    composedReady := nofun }

/-- The joint exchange step keeps the invariant. -/
theorem State.Inv.exchangeStep {s t : State} (h : s.Inv) (e : exchangeStep s = .next t) : t.Inv := by
  obtain ⟨-, rfl⟩ | ⟨hen, -, -, rfl⟩ | ⟨hen, -, -, rfl⟩ := exchangeStep_cases e
  · exact h
  · exact h.completeExchange (h.bmlIdle (.inr (pSt_of_exchangeEnabled hen)))
  · exact h.failInitiated (h.bmlIdle (.inr (pSt_of_exchangeEnabled hen)))

/-! ## The controller's loop -/

/-- A step of decode and dispatch keeps the invariant. -/
theorem State.Inv.cmlStep {s t : State} (h : s.Inv) (e : cmlStep s = .next t) : t.Inv := by
  unfold Machine.cmlStep at e
  split at e
  · exact h.dispatchNext e
  · split at e
    · obtain rfl := Host.Outcome.next.inj e
      exact h
    · exact h.decodeBlk.dispatchNext e

/-- A UART poll keeps the invariant. -/
theorem State.Inv.uartStep {s t : State} (h : s.Inv) (e : uartStep s = .next t) : t.Inv := by
  unfold Machine.uartStep at e
  split_ifs at e
  · exact h.decodeUart.dispatchNext e
  · obtain rfl := Host.Outcome.next.inj e
    exact h

/-! ## Every step -/

/-- A step of any agent keeps the invariant. -/
theorem State.Inv.runAgent {a : Agent} {s t : State} (h : s.Inv) (e : runAgent a s = .next t) : t.Inv := by
  cases a with
  | evt => obtain rfl := Host.Outcome.next.inj e; exact h.evtStep
  | bml => exact h.bmlStep e
  | exchange => exact h.exchangeStep e
  | compose => obtain rfl := Host.Outcome.next.inj e; exact h.composeStep
  | cml => exact h.cmlStep e
  | uart => exact h.uartStep e

theorem State.Inv.encCycle {s : State} (h : s.Inv) (e : EncSel) (i : EncIn) : (encCycle e i s).Inv := by
  cases e with
  | encB => exact { h with encBOk := h.encBOk.next i }
  | encC => exact { h with encCOk := h.encCOk.next i }

/-- Any stimulus keeps the invariant. -/
theorem State.Inv.perform {x : Stim} {s t : State} (h : s.Inv) (e : perform x s = .next t) : t.Inv := by
  cases x with
  | arrive ev => obtain rfl := Host.Outcome.next.inj e; exact { h with }
  | run a p => exact (h.latch p).runAgent e
  | resetBridge => obtain rfl := Host.Outcome.next.inj e; exact h.resetBridge
  | resetController => obtain rfl := Host.Outcome.next.inj e; exact h.resetController
  | encClk sel i => obtain rfl := Host.Outcome.next.inj e; exact h.encCycle sel i
  | decClk sel i => obtain rfl := Host.Outcome.next.inj e; exact h.decCycle sel i

theorem State.Inv.takeStim {s : State} (h : s.Inv) : (takeStim s).Inv := by
  unfold Machine.takeStim
  split <;> exact { h with }

/-- Settles O51: taking the stimulus touches no hardware state, and performing it keeps the invariant, agent by agent. -/
theorem everyStepKeepsTheStateSound : Obligations.EveryStepKeepsTheStateSound := fun _ _ h e =>
  h.takeStim.perform (step_next e).2

end Sys2Proof.Machine
end

section
/-! PROOFS. The memory statements (20_memory.md): auxiliary readings as bytes (R61), the queue (R72, R75), and the latched
triggers (R71). -/

namespace Sys2Proof.Machine

/-! ## Auxiliary readings -/

/-- Reading the bytes of `v` most significant first, on from `a`, appends the low `w` bytes of `v` to `a`. -/
theorem foldl_beBytes (w v a : Nat) :
    (beBytes w v).foldl (fun a b => a * 256 + b.toNat) a = a * 256 ^ w + v % 256 ^ w := by
  induction w generalizing a with
  | zero => simp [beBytes, Nat.mod_one]
  | succ w ih =>
    have hbyte : (BitVec.ofNat 8 (v / 256 ^ w)).toNat = v / 256 ^ w % 256 := BitVec.toNat_ofNat ..
    rw [beBytes, List.foldl_cons, ih, hbyte, Nat.mod_pow_succ]
    ring

/-- Settles O45: a value below `256 ^ w` is its own low `w` bytes; the length and the order are `auxBytes`' own. -/
theorem auxiliaryReadingsAreBigEndian : Obligations.AuxiliaryReadingsAreBigEndian := by
  refine ⟨fun w v hv => ?_, length_auxBytes, fun w a ws as => rfl⟩
  rw [foldl_beBytes, Nat.mod_eq_of_lt hv, Nat.zero_mul, Nat.zero_add]

/-! ## The bridge's shared memory, step by step -/

/-- From `b` to `b'` the queue, the two triggers and `b_tx` stay. -/
structure MemoryKept (b b' : Bridge) : Prop where
  q : b'.q = b.q
  discTrig : b'.discTrig = b.discTrig
  ovfTrig : b'.ovfTrig = b.ovfTrig
  bTx : b'.bTx = b.bTx

/-- Of the rules of `BML`, the load of `b_tx` (R203), the consumption of the triggers (R262) and the override (R263) write
the bridge's shared memory; the others keep it. -/
theorem bmlStep_memory {s t : State} (h : bmlStep s = .next t) :
    MemoryKept s.br t.br ∨
    (s.br.pSt = .wait ∧ t = { s with
      br := { s.br with q := s.br.q.tail, bTx := s.br.q.headD (zeros blockSize), bmlPc := .takeDisc } }) ∨
    (s.br.bmlPc = .takeDisc ∧ t = { s with br := { s.br with discTrig := false, bmlPc := .takeOvf s.br.discTrig } }) ∨
    (∃ d, s.br.bmlPc = .takeOvf d ∧
      t = { s with br := { s.br with ovfTrig := false, bmlPc := .override d s.br.ovfTrig } }) ∨
    t = { s with br := { s.br with bTx := brakeBlock s.cfg, bmlPc := .prepDone } } := by
  obtain rfl | ⟨-, hp, rfl⟩ | ⟨-, -, rfl⟩ | ⟨-, -, rfl⟩ | ⟨-, -, l, d1, d2, -, rfl⟩ | ⟨-, -, l, -, rfl⟩ | ⟨hpc, rfl⟩ |
    ⟨d, hpc, rfl⟩ | ⟨d, o, -, -, -, -, rfl⟩ | ⟨d, o, -, -, rfl⟩ | ⟨-, rfl⟩ | ⟨d1, d2, aux, a, b, l, -, rfl⟩ | ⟨-, rfl⟩ |
    ⟨f, d1, d2, aux, -, rfl | ⟨-, rfl⟩⟩ := bmlStep_cases h
  -- the rules that write none of the four
  any_goals exact .inl ⟨rfl, rfl, rfl, rfl⟩
  · exact .inr (.inl ⟨hp, rfl⟩)
  · exact .inr (.inr (.inl ⟨hpc, rfl⟩))
  · exact .inr (.inr (.inr (.inl ⟨d, hpc, rfl⟩)))
  · exact .inr (.inr (.inr (.inr rfl)))

theorem evtStep_keeps_bTx_bmlPc (s : State) :
    (evtStep s).br.bTx = s.br.bTx ∧ (evtStep s).br.bmlPc = s.br.bmlPc := by
  obtain ⟨q, o, d, k, c, es, pc, l, e, -⟩ := evtStep_frame s
  rw [e]
  exact ⟨rfl, rfl⟩

theorem evtStep_keeps_triggers (s : State) :
    (s.br.discTrig = true → (evtStep s).br.discTrig = true) ∧ (s.br.ovfTrig = true → (evtStep s).br.ovfTrig = true) := by
  obtain ⟨q, o, d, k, c, es, pc, l, e, ho, hd, -⟩ := evtStep_frame s
  rw [e]
  exact ⟨hd, ho⟩

theorem CmlFrame.memoryKept {f : Option Instr} {s t : State} (h : CmlFrame f s t) :
    MemoryKept s.br t.br ∧ t.br.bmlPc = s.br.bmlPc := by
  obtain ⟨a, b, e⟩ := h.br
  rw [e]
  exact ⟨⟨rfl, rfl, rfl, rfl⟩, rfl⟩

theorem exchangeStep_memoryKept {s t : State} (h : exchangeStep s = .next t) :
    MemoryKept s.br t.br ∧ t.br.bmlPc = s.br.bmlPc := by
  obtain ⟨-, rfl⟩ | ⟨-, -, -, rfl⟩ | ⟨-, -, -, rfl⟩ := exchangeStep_cases h
  · exact ⟨⟨rfl, rfl, rfl, rfl⟩, rfl⟩
  · exact ⟨⟨rfl, rfl, rfl, rfl⟩, rfl⟩
  · exact ⟨⟨rfl, rfl, rfl, rfl⟩, rfl⟩

theorem composeStep_br (s : State) : (composeStep s).br = s.br := by
  obtain e | ⟨b, -, -, -, e⟩ := composeStep_shape s <;> rw [e]

/-- Of the agents only `EVT` and `BML` write the bridge's shared memory or move the main loop (R306). -/
theorem runAgent_memory {a : Agent} {s t : State} (h : runAgent a s = .next t) :
    (MemoryKept s.br t.br ∧ t.br.bmlPc = s.br.bmlPc) ∨ t = evtStep s ∨ bmlStep s = .next t := by
  cases a with
  | evt => exact .inr (.inl (Host.Outcome.next.inj h).symm)
  | bml => exact .inr (.inr h)
  | exchange => exact .inl (exchangeStep_memoryKept h)
  | compose =>
    obtain rfl := Host.Outcome.next.inj h
    rw [composeStep_br]
    exact .inl ⟨⟨rfl, rfl, rfl, rfl⟩, rfl⟩
  | cml => exact .inl (cmlStep_frame h).1.memoryKept
  | uart => exact .inl (uartStep_frame h).1.memoryKept

/-- A stimulus but a reset of the bridge keeps its shared memory and the place of its main loop, or is a step of `EVT` or of
`BML` from the bridge and the configuration as they are. -/
theorem perform_memory {x : Stim} {s t : State} (h : perform x s = .next t) (hx : x ≠ .resetBridge) :
    (MemoryKept s.br t.br ∧ t.br.bmlPc = s.br.bmlPc) ∨
    ∃ u, u.br = s.br ∧ u.cfg = s.cfg ∧ (t = evtStep u ∨ bmlStep u = .next t) := by
  cases x with
  | run a p =>
    rw [← latch_br p s, ← latch_cfg p s]
    exact (runAgent_memory h).imp_right fun h => ⟨latch p s, rfl, rfl, h⟩
  | arrive e => obtain rfl := Host.Outcome.next.inj h; exact .inl ⟨⟨rfl, rfl, rfl, rfl⟩, rfl⟩
  | resetBridge => exact absurd rfl hx
  | resetController => obtain rfl := Host.Outcome.next.inj h; exact .inl ⟨⟨rfl, rfl, rfl, rfl⟩, rfl⟩
  | encClk e i => obtain rfl := Host.Outcome.next.inj h; cases e <;> exact .inl ⟨⟨rfl, rfl, rfl, rfl⟩, rfl⟩
  | decClk d i => obtain rfl := Host.Outcome.next.inj h; exact .inl ⟨⟨rfl, rfl, rfl, rfl⟩, rfl⟩

/-- The same of a step: taking the stimulus touches neither the bridge nor the configuration. -/
theorem step_memory {s t : State} (h : step s = .next t) (hr : nextStim s ≠ .resetBridge) :
    (MemoryKept s.br t.br ∧ t.br.bmlPc = s.br.bmlPc) ∨
    ∃ u, u.br = s.br ∧ u.cfg = s.cfg ∧ (t = evtStep u ∨ bmlStep u = .next t) := by
  rw [← takeStim_br s, ← takeStim_cfg s]
  exact perform_memory (step_next h).2 hr

/-! ## The queue -/

/-- R72: the event context appends the payload it receives, below capacity; every other step of it leaves the queue. -/
theorem evtStep_queue (s : State) :
    (evtStep s).br.q = s.br.q ∨
    ∃ p es, s.br.evtQ = .wirelessRx p :: es ∧ s.br.q.length < s.cfg.queueCap ∧ (evtStep s).br.q = s.br.q ++ [pad128 p] := by
  unfold evtStep
  split
  · split
    · exact .inl rfl
    · rename_i e es hq
      cases e with
      | wirelessRx p =>
        simp only [startEvent, receivePayload]
        split_ifs with hcap
        · exact .inr ⟨p, es, hq, hcap, rfl⟩
        · exact .inl rfl
      | connect n => exact .inl rfl
      | disconnect =>
        simp only [startEvent, latchDisconnect]
        split_ifs <;> exact .inl rfl
  · exact .inl rfl
  · exact .inl rfl
  · exact .inl rfl

/-- R203: the main loop takes the queue's head to `b_tx` in P_WAIT; every other step of it leaves the queue. -/
theorem bmlStep_queue {s t : State} (h : bmlStep s = .next t) :
    t.br.q = s.br.q ∨ ∃ e, s.br.pSt = .wait ∧ s.br.q = e :: t.br.q ∧ t.br.bTx = e := by
  obtain hk | ⟨hp, rfl⟩ | ⟨-, rfl⟩ | ⟨d, -, rfl⟩ | rfl := bmlStep_memory h
  · exact .inl hk.q
  · cases hq : s.br.q with
    | nil => exact .inl rfl
    | cons e q => exact .inr ⟨e, hp, rfl, rfl⟩
  · exact .inl rfl
  · exact .inl rfl
  · exact .inl rfl

/-- Settles O56: only the event context and the main loop write the queue, each at its own end. -/
theorem queueChangesOnlyAtItsEnds : Obligations.QueueChangesOnlyAtItsEnds := by
  intro s t h hr
  obtain ⟨hk, -⟩ | ⟨u, hbr, hcfg, rfl | hbml⟩ := step_memory h hr
  · exact .inl hk.q
  · rw [← hbr, ← hcfg]
    obtain ⟨hbTx, -⟩ := evtStep_keeps_bTx_bmlPc u
    exact (evtStep_queue u).imp_right fun ⟨p, es, hq, hcap, happ⟩ => .inl ⟨p, es, hq, hcap, happ, hbTx⟩
  · rw [← hbr]
    exact (bmlStep_queue hbml).imp_right .inr

/-! ## The triggers -/

/-- R71, R262, R263: from `b` to `b'`, under `c`, a latched trigger stays, or goes into the main loop's memory; what the
main loop remembers stays until the override; and a block made final stays until it is prepared. -/
structure TriggersHeld (c : Config) (b b' : Bridge) : Prop where
  disc : b.discTrig = true → b'.discTrig = true ∨ (b.bmlPc = .takeDisc ∧ b'.bmlPc = .takeOvf true)
  ovf : b.ovfTrig = true → b'.ovfTrig = true ∨ ∃ d, b.bmlPc = .takeOvf d ∧ b'.bmlPc = .override d true
  discRemembered : b.bmlPc = .takeOvf true → b'.bmlPc = .takeOvf true ∨ ∃ o, b'.bmlPc = .override true o
  override : ∀ d o, b.bmlPc = .override d o → d = true ∨ o = true →
    b'.bmlPc = .override d o ∨ (b'.bmlPc = .prepDone ∧ b'.bTx = brakeBlock c)
  final : b.bmlPc = .prepDone → b'.bTx = b.bTx ∧ (b'.bmlPc = .prepDone ∨ (b'.bmlPc = .idle ∧ b'.pSt = .prepared))

/-- What neither clears a trigger, nor writes `b_tx`, nor moves the main loop, holds the triggers. -/
theorem TriggersHeld.of_bmlPc_eq {c : Config} {b b' : Bridge} (hpc : b'.bmlPc = b.bmlPc) (hbTx : b'.bTx = b.bTx)
    (hd : b.discTrig = true → b'.discTrig = true) (ho : b.ovfTrig = true → b'.ovfTrig = true) : TriggersHeld c b b' where
  disc h := .inl (hd h)
  ovf h := .inl (ho h)
  discRemembered h := .inl (hpc.trans h)
  override _ _ h _ := .inl (hpc.trans h)
  final h := ⟨hbTx, .inl (hpc.trans h)⟩

theorem MemoryKept.triggersHeld {c : Config} {b b' : Bridge} (h : MemoryKept b b') (hpc : b'.bmlPc = b.bmlPc) :
    TriggersHeld c b b' :=
  .of_bmlPc_eq hpc h.bTx h.discTrig.trans h.ovfTrig.trans

theorem evtStep_triggersHeld (s : State) : TriggersHeld s.cfg s.br (evtStep s).br :=
  have ⟨hbTx, hpc⟩ := evtStep_keeps_bTx_bmlPc s
  have ⟨hd, ho⟩ := evtStep_keeps_triggers s
  .of_bmlPc_eq hpc hbTx hd ho

/-- R262: the main loop clears `disc_trig` only to remember it. -/
theorem bmlStep_disc {s t : State} (h : bmlStep s = .next t) (hd : s.br.discTrig = true) :
    t.br.discTrig = true ∨ (s.br.bmlPc = .takeDisc ∧ t.br.bmlPc = .takeOvf true) := by
  obtain hk | ⟨-, rfl⟩ | ⟨hpc, rfl⟩ | ⟨d, -, rfl⟩ | rfl := bmlStep_memory h
  · exact .inl (hk.discTrig.trans hd)
  · exact .inl hd
  · exact .inr ⟨hpc, congrArg BmlPc.takeOvf hd⟩
  · exact .inl hd
  · exact .inl hd

/-- R262: the main loop clears `ovf_trig` only to remember it. -/
theorem bmlStep_ovf {s t : State} (h : bmlStep s = .next t) (ho : s.br.ovfTrig = true) :
    t.br.ovfTrig = true ∨ ∃ d, s.br.bmlPc = .takeOvf d ∧ t.br.bmlPc = .override d true := by
  obtain hk | ⟨-, rfl⟩ | ⟨-, rfl⟩ | ⟨d, hpc, rfl⟩ | rfl := bmlStep_memory h
  · exact .inl (hk.ovfTrig.trans ho)
  · exact .inl ho
  · exact .inl ho
  · exact .inr ⟨d, hpc, congrArg (BmlPc.override d) ho⟩
  · exact .inl ho

theorem bmlStep_of_takeOvf {s : State} {d : Bool} (hpc : s.br.bmlPc = .takeOvf d) :
    bmlStep s = .next ((xchgOvf s).2.goto (.override d s.br.ovfTrig)) := by
  simp [bmlStep, hpc, xchgOvf]

/-- With a trigger remembered, the override is the fail-safe entry (R263). -/
theorem bmlStep_of_override {s : State} {d o : Bool} (hpc : s.br.bmlPc = .override d o) (hdo : d = true ∨ o = true) :
    bmlStep s = andThen (failSafeEntry s) fun t => .next (t.goto .prepDone) := by
  simp [bmlStep, hpc, hdo]

theorem bmlStep_of_prepDone {s : State} (hpc : s.br.bmlPc = .prepDone) :
    bmlStep s = .next { s with br := { s.br with pSt := .prepared, bmlPc := .idle } } := by
  simp [bmlStep, hpc]

/-- The main loop consumes a trigger into its memory, and leaves the memory only by the override (R262, R263). -/
theorem bmlStep_triggersHeld {s t : State} (h : bmlStep s = .next t) : TriggersHeld s.cfg s.br t.br where
  disc := bmlStep_disc h
  ovf := bmlStep_ovf h
  discRemembered hpc := by
    rw [bmlStep_of_takeOvf hpc] at h
    obtain rfl := Host.Outcome.next.inj h
    exact .inr ⟨_, rfl⟩
  override d o hpc hdo := by
    rw [bmlStep_of_override hpc hdo] at h
    obtain ⟨u, hwrite, hgoto⟩ := andThen_eq_next h
    obtain ⟨-, -, rfl⟩ := writeBTx_next hwrite
    obtain rfl := Host.Outcome.next.inj hgoto
    exact .inr ⟨rfl, rfl⟩
  final hpc := by
    rw [bmlStep_of_prepDone hpc] at h
    obtain rfl := Host.Outcome.next.inj h
    exact ⟨rfl, .inr ⟨rfl, rfl⟩⟩

/-- Settles O58: the event context only sets triggers, the main loop consumes them into its memory, and nobody else
touches either. -/
theorem latchedTriggersAreNeverLost : Obligations.LatchedTriggersAreNeverLost := by
  intro s t h hr
  have held : TriggersHeld s.cfg s.br t.br := by
    obtain ⟨hk, hpc⟩ | ⟨u, hbr, hcfg, rfl | hbml⟩ := step_memory h hr
    · exact hk.triggersHeld hpc
    · exact hbr ▸ hcfg ▸ evtStep_triggersHeld u
    · exact hbr ▸ hcfg ▸ bmlStep_triggersHeld hbml
  exact ⟨held.disc, held.ovf, held.discRemembered, held.override, held.final⟩

end Sys2Proof.Machine
end

section
/-! PROOFS. The encoding statements (30_encoding.md): the notification form (R99), the table's words (R104), and the
configurations a step refuses (R98, R10, R323). -/

namespace Sys2Proof

/-! ## The notification form -/

/-- The notification's bytes, one by one (R99). -/
theorem encode_telemNotify (c : Config) (d1 d2 : Byte) (aux : List Byte) :
    encode c (.telemNotify d1 d2 aux) =
      sync :: idTelemetry :: d1 :: d2 :: (aux ++ [sum8 (idTelemetry :: d1 :: d2 :: aux)]) := rfl

/-- With AUX_LEN auxiliary bytes, the receiver finds the checksum right behind them. -/
theorem decodeNotify_encode (c : Config) (d1 d2 : Byte) (aux : List Byte) (h : aux.length = c.auxLen) :
    decodeNotify c (encode c (.telemNotify d1 d2 aux)) = some (.telemNotify d1 d2 aux) := by
  rw [encode_telemNotify]
  simp [decodeNotify, ← h]

/-- Settles O19: the receiver counts the auxiliary bytes by AUX_LEN, and no Command Kind makes the notification form. -/
theorem notificationFormRoundTrips : Obligations.NotificationFormRoundTrips :=
  ⟨fun c d1 d2 aux hwf => decodeNotify_encode c d1 d2 aux (of_decide_eq_true hwf), frame_decodable⟩

/-! ## The table's words -/

/-- Settles O17: each word evaluates to its instruction under REFCFG. -/
theorem writtenWordsDecode : Obligations.WrittenWordsDecode := ⟨rfl, rfl, rfl, rfl, rfl⟩

/-! ## The admissible configurations -/

theorem Config.idsDistinct_iff (c : Config) : c.idsDistinct = true ↔ c.ids.Nodup := decide_eq_true_iff

theorem Config.inRange_iff (c : Config) :
    c.inRange = true ↔ 1 ≤ c.queueCap ∧ 0 < c.backoffWindow ∧ 0 < c.queueWaitTimeout ∧ 0 < c.xferTimeout ∧
      c.auxFields.sum ≤ 123 := by
  simp only [Config.inRange, Bool.and_eq_true, decide_eq_true_eq, and_assoc]
  rfl

end Sys2Proof

namespace Sys2Proof.Machine

/-! ## No stimulus is refused -/

@[simp] theorem andThen_eq_refused {o : Result} {f : State → Result} {r : Refusal} :
    andThen o f = .refused r ↔ o = .refused r ∨ ∃ s, o = .next s ∧ f s = .refused r := by
  cases o <;> simp

@[simp] theorem exec_ne_refused (i : Instr) (s : State) (r : Refusal) : exec i s ≠ .refused r := by
  obtain ⟨t, h⟩ := exec_total i s
  simp [h]

@[simp] theorem writeBTx_ne_refused (b : Block) (s : State) (r : Refusal) : writeBTx b s ≠ .refused r := by
  unfold writeBTx
  split_ifs <;> simp

@[simp] theorem loadBTx_ne_refused (s : State) (r : Refusal) : loadBTx s ≠ .refused r := by
  unfold loadBTx
  split <;> simp

@[simp] theorem failSafeEntry_ne_refused (s : State) (r : Refusal) : failSafeEntry s ≠ .refused r :=
  writeBTx_ne_refused _ s r

@[simp] theorem dispatchNext_ne_refused (s : State) (r : Refusal) : dispatchNext s ≠ .refused r := by
  unfold dispatchNext
  split <;> simp

theorem cmlStep_ne_refused (s : State) (r : Refusal) : cmlStep s ≠ .refused r := by
  unfold cmlStep
  split
  · simp
  · split <;> simp

theorem uartStep_ne_refused (s : State) (r : Refusal) : uartStep s ≠ .refused r := by
  unfold uartStep
  split_ifs <;> simp

theorem exchangeStep_ne_refused (s : State) (r : Refusal) : exchangeStep s ≠ .refused r := by
  unfold exchangeStep
  split_ifs <;> simp

/-- The main loop stops, if at all, in its writes of `b_tx`, and those fault. -/
theorem bmlStep_ne_refused (s : State) (r : Refusal) : bmlStep s ≠ .refused r := by
  cases hpc : s.br.bmlPc with
  | idle =>
    cases hp : s.br.pSt with
    | wait => by_cases he : prepareEnabled s = true <;> simp [bmlStep, hpc, hp, he]
    | _ => simp [bmlStep, hpc, hp]
  | override tD tO => by_cases ht : tD = true ∨ tO = true <;> simp [bmlStep, hpc, ht]
  | _ => simp [bmlStep, hpc]

theorem runAgent_ne_refused (a : Agent) (s : State) (r : Refusal) : runAgent a s ≠ .refused r := by
  cases a with
  | evt => exact nofun
  | bml => exact bmlStep_ne_refused s r
  | exchange => exact exchangeStep_ne_refused s r
  | compose => exact nofun
  | cml => exact cmlStep_ne_refused s r
  | uart => exact uartStep_ne_refused s r

/-- Only an agent's step can stop, and none is refused. -/
theorem perform_ne_refused (x : Stim) (s : State) (r : Refusal) : perform x s ≠ .refused r := by
  cases x with
  | run a p => exact runAgent_ne_refused a (latch p s) r
  | _ => exact nofun

/-! ## The refusals of a step -/

theorem step_of_ids_not_distinct {s : State} (h : ¬ s.cfg.idsDistinct = true) :
    step s = .refused .ambiguousIdentifiers := if_neg h

theorem step_of_out_of_range {s : State} (hids : s.cfg.idsDistinct = true) (h : ¬ s.cfg.inRange = true) :
    step s = .refused .configurationOutOfRange := (if_pos hids).trans (if_neg h)

theorem step_ne_refused {s : State} (h : s.cfg.wf = true) (r : Refusal) : step s ≠ .refused r :=
  step_eq s h ▸ perform_ne_refused _ _ r

/-- Settles O49: a step tests the identifiers, then the ranges, and refuses nothing after that. -/
theorem inadmissibleConfigurationsAreRefused : Obligations.InadmissibleConfigurationsAreRefused := by
  intro s
  rw [← Config.idsDistinct_iff, ← Config.inRange_iff]
  by_cases hids : s.cfg.idsDistinct = true
  · by_cases hrange : s.cfg.inRange = true
    · have hstep := step_ne_refused (s := s) (by simp [Config.wf, hids, hrange])
      simp [hstep, hids, hrange]
    · simp [step_of_out_of_range hids hrange, hids, hrange]
  · simp [step_of_ids_not_distinct hids, hids]

end Sys2Proof.Machine
end

section
/-! PROOFS. The encoder's statements (40_frame_encoder.md), pure part: what the decoder reads of a frame (R147), the checksum
(R125), `encode` and `pack` (R120, R126). -/

namespace Sys2Proof

/-! ## What the decoder reads of a frame -/

/-- A frame of a known identifier with a payload of its length is read whole, whatever follows (R157). -/
theorem decodeStep_frameBytes_append {c : Config} {id : Byte} {k : Kind} {p : List Byte} (hk : c.lookup id = some k)
    (hp : p.length = k.plen) (rest : List Byte) : decodeStep c (frameBytes id p ++ rest) = .frame (k.instr p) := by
  simp [frameBytes, decodeStep, hk, ← hp]

/-- R147: an encoded frame is read back with every operand, whatever follows. -/
theorem decodeStep_encode_append {c : Config} {i : Instr} (hc : c.idsDistinct = true) (hi : i.decodable = true)
    (rest : List Byte) : decodeStep c (encode c i ++ rest) = .frame i := by
  obtain ⟨k, hk, hlen, hinstr⟩ := lookup_id c i hc hi
  rw [encode, decodeStep_frameBytes_append hk hlen.symm, hinstr]

/-- Reading a frame removes exactly its bytes (R157). -/
theorem drop_consumed_encode_append (c : Config) (i : Instr) (rest : List Byte) :
    (encode c i ++ rest).drop (DecStep.frame i).consumed = rest :=
  List.drop_left' (length_frameBytes _ _)

/-- Running on an encoded frame returns it and goes on behind it (R160). -/
theorem run_encode_append {c : Config} {i : Instr} (hc : c.idsDistinct = true) (hi : i.decodable = true)
    (rest : List Byte) : run c (encode c i ++ rest) = ⟨.frame i :: (run c rest).outs, (run c rest).pend⟩ := by
  have hread := decodeStep_encode_append hc hi rest
  rw [run_step c _ (by simp [hread]), hread, drop_consumed_encode_append]

/-- A returned frame was read under a known identifier, from all the bytes its kind needs. -/
theorem eq_of_decodeStep_eq_frame {c : Config} {bs : List Byte} {i : Instr} (h : decodeStep c bs = .frame i) :
    ∃ id r k, bs = sync :: id :: r ∧ c.lookup id = some k ∧ k.plen + 1 ≤ r.length ∧ i = k.instr (r.take k.plen) := by
  obtain ⟨-, e⟩ | ⟨_, _, -, -, e⟩ | ⟨-, e⟩ | ⟨_, _, -, -, e⟩ | ⟨_, _, _, -, -, -, e⟩ | ⟨_, _, _, -, -, -, e⟩ |
    ⟨id, r, k, hbytes, hk, hlen, e⟩ := decodeStep_cases c bs <;> rw [e] at h
  · cases h
  · cases h
  · cases h
  · cases h
  · cases h
  · cases h
  · exact ⟨id, r, k, hbytes, hk, hlen, (DecStep.frame.inj h).symm⟩

/-- What is read back from the frame of `id` and `p` with payload `p` was declared with that identifier and length. -/
theorem lookup_of_decodeStep_frameBytes {c : Config} {id : Byte} {p : List Byte} {i : Instr}
    (h : decodeStep c (frameBytes id p) = .frame i) (hi : i.payload = p) :
    ∃ k, c.lookup id = some k ∧ p.length = k.plen := by
  obtain ⟨id', r, k, hbytes, hk, hlen, rfl⟩ := eq_of_decodeStep_eq_frame h
  obtain ⟨-, rfl, -⟩ : sync = sync ∧ id = id' ∧ p ++ [sum8 (id :: p)] = r := by simpa [frameBytes] using hbytes
  have htake : (r.take k.plen).length = k.plen := List.length_take_of_le (by omega)
  exact ⟨k, hk, by rw [← hi, payload_instr k _ htake, htake]⟩

/-- Settles O18: encoder and decoder go by the same lookup, and a frame is read with exactly its kind's length. -/
theorem decodeOfEncodeIsTheFrame : Obligations.DecodeOfEncodeIsTheFrame := by
  refine ⟨fun c i rest hc hi => ?_, fun c id p => ⟨fun ⟨i, hread, _, hp⟩ => lookup_of_decodeStep_frameBytes hread hp, ?_⟩⟩
  · rw [decodeStep_encode_append hc hi]
    exact ⟨rfl, drop_consumed_encode_append c i rest⟩
  · rintro ⟨k, hk, hlen⟩
    have hread := decodeStep_frameBytes_append hk hlen []
    rw [List.append_nil] at hread
    exact ⟨k.instr p, hread, (lookup_instr c id k p hk).2, payload_instr k p hlen⟩

/-! ## The checksum -/

/-- One byte replaced, the sum stays only if the byte does: addition cancels. -/
theorem sum8_set_eq_iff {body : List Byte} {n : Nat} (b : Byte) (h : n < body.length) :
    sum8 (body.set n b) = sum8 body ↔ b = body[n] := by
  induction body generalizing n with
  | nil => cases h
  | cons a t ih =>
    cases n with
    | zero => simp
    | succ n => simp [ih (Nat.lt_of_succ_lt_succ h)]

theorem one_shiftLeft_ne_zero : ∀ k : Fin 8, 1#8 <<< k.val ≠ 0#8 := by decide

/-- Settles O8: the flipped byte differs from the byte it replaces, as the mask is not zero. -/
theorem everyBitFlipChangesTheChecksum : Obligations.EveryBitFlipChangesTheChecksum := by
  intro body n k h hsum
  rw [sum8_set_eq_iff _ h, List.getD_eq_getElem _ _ h] at hsum
  exact one_shiftLeft_ne_zero k (by simpa using hsum)

/-! ## encode and pack -/

theorem encodeFrame_of_le {id : Byte} {p : List Byte} (h : p.length ≤ 125) : encodeFrame id p = some (frameBytes id p) :=
  if_pos h

theorem encodeFrame_of_gt {id : Byte} {p : List Byte} (h : 125 < p.length) : encodeFrame id p = none :=
  if_neg (Nat.not_le.mpr h)

/-- Settles O6: the length decides, and the bytes are `frameBytes` as it stands. -/
theorem encodeGivesOneFrameOrFails : Obligations.EncodeGivesOneFrameOrFails := fun id p =>
  ⟨fun h => ⟨encodeFrame_of_le h, length_frameBytes id p⟩, encodeFrame_of_gt⟩

/-- Settles O7: what fits a block is padded to one, and what does not is refused. -/
theorem packFillsOneBlockOrFails : Obligations.PackFillsOneBlockOrFails := fun fs =>
  ⟨fun h => ⟨pad128 fs.flatten, if_pos h, length_pad128 _, pad128_of_le _ h⟩, fun h => if_neg (Nat.not_le.mpr h)⟩

end Sys2Proof
end

section
/-! PROOFS. The encoder's statements (40_frame_encoder.md), instruction by instruction: the bytes of each frame and what its
meaning does (R138 to R146, R183 to R190). -/

namespace Sys2Proof

/-- The frame without payload: its checksum is its identifier. -/
@[simp] theorem frameBytes_nil (id : Byte) : frameBytes id [] = [0xA5, id, id] := by simp [frameBytes, sync]

theorem encode_of_payload_eq_nil (c : Config) {i : Instr} (h : i.payload = []) : encode c i = [0xA5, i.id c, i.id c] := by
  rw [encode, h, frameBytes_nil]

theorem encode_telem (c : Config) (d1 d2 : Byte) :
    encode c (.telem d1 d2) = [0xA5, 0x60, d1, d2, 0x60 + d1 + d2] := by
  simp [encode, frameBytes, Instr.id, Instr.payload, sync, idTelemetry, BitVec.add_assoc]

end Sys2Proof

namespace Sys2Proof.Machine

/-- Settles O1: no payload, and one event put out. -/
theorem pingEmitsOnlyItsEvent : Obligations.PingEmitsOnlyItsEvent := fun s =>
  ⟨encode_of_payload_eq_nil s.cfg rfl, rfl⟩

/-- Settles O2: no payload, and `actuate` on channel 0. -/
theorem liftCommandsDriveChannelZero : Obligations.LiftCommandsDriveChannelZero := fun s =>
  ⟨⟨encode_of_payload_eq_nil s.cfg rfl, rfl⟩, ⟨encode_of_payload_eq_nil s.cfg rfl, rfl⟩,
    ⟨encode_of_payload_eq_nil s.cfg rfl, rfl⟩⟩

/-- Settles O3: no payload, and `actuate` on channel 1. -/
theorem tiltCommandsDriveChannelOne : Obligations.TiltCommandsDriveChannelOne := fun s =>
  ⟨⟨encode_of_payload_eq_nil s.cfg rfl, rfl⟩, ⟨encode_of_payload_eq_nil s.cfg rfl, rfl⟩,
    ⟨encode_of_payload_eq_nil s.cfg rfl, rfl⟩⟩

/-- Settles O4: the frame alone is one step of the decoder, behind which nothing is left. -/
theorem telemetryAtControllerIsOnlyLogged : Obligations.TelemetryAtControllerIsOnlyLogged := by
  intro d1 d2 s
  refine ⟨encode_telem s.cfg d1 d2, fun hc => ?_, rfl⟩
  have hrun := run_encode_append hc (i := .telem d1 d2) rfl []
  rwa [List.append_nil, encode_telem] at hrun

/-- R242, R244: the radio accepts the send to the peer's handle. -/
theorem radioSend_of_accepted {s : State} {h : Handle} (hconn : s.br.conn = some h) (hok : s.env.pins.sendOk = true)
    (note : List Byte) : radioSend note s = { s with
      br := { s.br with lastSend := some s.env.now, backoffDeadline := none }
      trace := s.trace ++ [.radioSend h note true, .notify note] } := by
  obtain ⟨-, e⟩ | ⟨hs, -⟩ := radioSend_shape note s
  · simp [e, sendRequest, hconn, hok]
  · simp [sendSucceeds, hconn, hok] at hs

/-- R242, R243: the radio refuses the send to the peer's handle. -/
theorem radioSend_of_refused {s : State} {h : Handle} (hconn : s.br.conn = some h) (hok : s.env.pins.sendOk = false)
    (note : List Byte) : radioSend note s = { s with
      br := { s.br with lastSend := some s.env.now, backoffDeadline := some (s.env.now + s.cfg.backoffWindow) }
      trace := s.trace ++ [.radioSend h note false] ++ [.log .bridge .sendFailed] } := by
  obtain ⟨hs, -⟩ | ⟨-, e⟩ := radioSend_shape note s
  · simp [sendSucceeds, hok] at hs
  · simp [e, sendRequest, hconn, hok]

/-- R242, R243: with the handle gone the radio is not asked. -/
theorem radioSend_of_no_handle {s : State} (hconn : s.br.conn = none) (note : List Byte) : radioSend note s = { s with
      br := { s.br with lastSend := some s.env.now, backoffDeadline := some (s.env.now + s.cfg.backoffWindow) }
      trace := s.trace ++ [] ++ [.log .bridge .sendFailed] } := by
  obtain ⟨hs, -⟩ | ⟨-, e⟩ := radioSend_shape note s
  · simp [sendSucceeds, hconn] at hs
  · simp [e, sendRequest, hconn]

theorem exec_telemNotify_of_le {aux : List Byte} (h : aux.length ≤ 123) (d1 d2 : Byte) (s : State) :
    exec (.telemNotify d1 d2 aux) s = .next (radioSend (frameBytes idTelemetry (d1 :: d2 :: aux)) s) := by
  have hlen : (d1 :: d2 :: aux).length ≤ 125 := Nat.add_le_add_right h 2
  simp only [exec, execTelemNotify, encodeFrame_of_le hlen]

theorem exec_telemNotify_of_gt {aux : List Byte} (h : 123 < aux.length) (d1 d2 : Byte) (s : State) :
    exec (.telemNotify d1 d2 aux) s = .next (s.raise .bridge (.payloadTooLong (aux.length + 2))) := by
  have hlen : 125 < (d1 :: d2 :: aux).length := Nat.add_lt_add_right h 2
  simp only [exec, execTelemNotify, encodeFrame_of_gt hlen]

/-- Settles O5: up to 123 auxiliary bytes the meaning is `radioSend` of the frame, which the handle and the drawn result
decide; above, the encoder fails. -/
theorem notifySendsItsFrameOrReportsFailure : Obligations.NotifySendsItsFrameOrReportsFailure := by
  intro d1 d2 aux s
  refine ⟨rfl, fun h hlen hconn hok => ?_, fun h hlen hconn hok => ?_, fun hlen hconn => ?_,
    fun hlen => exec_telemNotify_of_gt hlen d1 d2 s⟩ <;> rw [exec_telemNotify_of_le hlen]
  · exact congrArg Host.Outcome.next (radioSend_of_accepted hconn hok _)
  · exact congrArg Host.Outcome.next (radioSend_of_refused hconn hok _)
  · exact congrArg Host.Outcome.next (radioSend_of_no_handle hconn _)

end Sys2Proof.Machine
end

section
/-! PROOFS. The byte-serial encoder's statements (40_frame_encoder.md rules R128 to R137). -/

namespace Sys2Proof.Machine

/-! ## A start -/

/-- R131: an accepted start loads the registers. -/
theorem encNext_of_accepted_start {r : EncRegs} {i : EncIn} (hr : r.st = .idle) (hi : i.start = true)
    (hlen : i.lenIn.toNat ≤ 125) : encNext r i = ⟨.sync, i.idIn, i.lenIn.toNat, 0, 0⟩ := by
  simp [encNext, hr, hi, hlen, maxPayload, blockSize, frameOverhead]

/-- R131: an accepted start shows nothing on the trace. -/
theorem encEvents_of_accepted_start {r : EncRegs} {i : EncIn} (hr : r.st = .idle) (hlen : i.lenIn.toNat ≤ 125)
    (e : EncSel) : encEvents e r i = [] := by
  have hfits : ¬ 125 < i.lenIn.toNat := Nat.not_lt.mpr hlen
  simp [encEvents, encTaken, encOut, hr, hfits, maxPayload, blockSize, frameOverhead]

/-- R131: a start that is too long changes no register. -/
theorem encNext_of_refused_start {r : EncRegs} {i : EncIn} (hr : r.st = .idle) (hlen : 125 < i.lenIn.toNat) :
    encNext r i = r := by
  have hlong : ¬ i.lenIn.toNat ≤ 125 := Nat.not_le.mpr hlen
  simp [encNext, hr, hlong, maxPayload, blockSize, frameOverhead]

/-- R131: a start that is too long is reported with E6. -/
theorem encEvents_of_refused_start {r : EncRegs} {i : EncIn} (hr : r.st = .idle) (hi : i.start = true)
    (hlen : 125 < i.lenIn.toNat) (e : EncSel) :
    encEvents e r i = [.encTooLong e, .log (encDevice e) (.payloadTooLong i.lenIn.toNat)] := by
  simp [encEvents, encTaken, encOut, hr, hi, hlen, maxPayload, blockSize, frameOverhead]

/-- Outside E_IDLE the registers do not depend on the start input. -/
theorem encNext_ignores_start {r : EncRegs} (hr : r.st ≠ .idle) (i : EncIn) (b : Bool) :
    encNext r { i with start := b } = encNext r i := by
  cases hst : r.st with
  | idle => exact absurd hst hr
  | _ => simp [encNext, hst]

/-- Outside E_IDLE the ports do not depend on the start input. -/
theorem encOut_ignores_start {r : EncRegs} (hr : r.st ≠ .idle) (i : EncIn) (b : Bool) :
    encOut r { i with start := b } = encOut r i := by
  cases hst : r.st with
  | idle => exact absurd hst hr
  | _ => simp [encOut, hst]

theorem encEvents_ignores_start {r : EncRegs} (hr : r.st ≠ .idle) (e : EncSel) (i : EncIn) (b : Bool) :
    encEvents e r { i with start := b } = encEvents e r i := by
  simp [encEvents, encTaken, encOut_ignores_start hr]

theorem perform_encClk_encB (i : EncIn) (s : State) : perform (.encClk .encB i) s = .next { s with
    br := { s.br with enc := encNext s.br.enc i }, trace := s.trace ++ encEvents .encB s.br.enc i } := rfl

theorem perform_encClk_encC (i : EncIn) (s : State) : perform (.encClk .encC i) s = .next { s with
    ct := { s.ct with enc := encNext s.ct.enc i }, trace := s.trace ++ encEvents .encC s.ct.enc i } := rfl

/-- Settles O11: a cycle writes an encoder's registers and the trace, and both are known in each of the three cases. -/
theorem serialEncoderStarts : Obligations.SerialEncoderStarts := by
  intro i s hi
  simp only [perform_encClk_encB, perform_encClk_encC]
  refine ⟨fun hlen => ⟨fun hr => ?_, fun hr => ?_⟩, fun hlen => ⟨fun hr => ?_, fun hr => ?_⟩, fun hr => ?_, fun hr => ?_⟩
  · rw [encNext_of_accepted_start hr hi hlen, encEvents_of_accepted_start hr hlen, List.append_nil]
  · rw [encNext_of_accepted_start hr hi hlen, encEvents_of_accepted_start hr hlen, List.append_nil]
  · rw [encNext_of_refused_start hr hlen, encEvents_of_refused_start hr hi hlen, encDevice]
  · rw [encNext_of_refused_start hr hlen, encEvents_of_refused_start hr hi hlen, encDevice]
  · rw [encNext_ignores_start hr i false, encEvents_ignores_start hr _ i false]
  · rw [encNext_ignores_start hr i false, encEvents_ignores_start hr _ i false]

/-! ## A frame in progress -/

/-- How many payload bytes a frame in progress still takes. -/
def EncRegs.wanted (r : EncRegs) : Nat :=
  match r.st with
  | .idle => 0
  | .sync => r.len - r.cnt
  | .id => r.len - r.cnt
  | .payload => r.len - r.cnt
  | .cks => 0

/-- The end of a frame's output: the payload bytes and, as the last, the checksum on from `acc`. -/
def encTail (acc : Byte) (p : List Byte) : List (Byte × Bool) := p.map (fun b => (b, false)) ++ [(acc + sum8 p, true)]

@[simp] theorem encTail_nil (acc : Byte) : encTail acc [] = [(acc, true)] := by simp [encTail]

@[simp] theorem encTail_cons (acc b : Byte) (p : List Byte) : encTail acc (b :: p) = (b, false) :: encTail (acc + b) p := by
  simp [encTail, BitVec.add_assoc]

/-- What a frame in progress still puts out, when `p` are the payload bytes it still takes. -/
def EncRegs.owed (r : EncRegs) (p : List Byte) : List (Byte × Bool) :=
  match r.st with
  | .idle => []
  | .sync => (sync, false) :: (r.id, false) :: encTail r.id p
  | .id => (r.id, false) :: encTail r.id p
  | .payload => encTail r.acc p
  | .cks => encTail r.acc p

/-- Everything a cycle of a frame in progress can be (R132 to R135): it stalls where a handshake it needs is missing, or it
moves on from its state. -/
theorem encNext_cases {r : EncRegs} (hst : r.st ≠ .idle) (i : EncIn) :
    (¬ (i.oReady = true ∧ i.pValid = true) ∧ encNext r i = r ∧ encTaken r i = none ∧ encAccepted r i = none) ∨
    (r.st = .sync ∧ encNext r i = { r with st := .id } ∧ encTaken r i = some (sync, false) ∧ encAccepted r i = none) ∨
    (r.st = .id ∧ encNext r i = { r with acc := r.id, st := if 0 < r.len then .payload else .cks } ∧
      encTaken r i = some (r.id, false) ∧ encAccepted r i = none) ∨
    (r.st = .payload ∧
      encNext r i = { r with
        acc := r.acc + i.pData, cnt := r.cnt + 1, st := if r.cnt + 1 = r.len then .cks else .payload } ∧
      encTaken r i = some (i.pData, false) ∧ encAccepted r i = some i.pData) ∨
    (r.st = .cks ∧ encNext r i = { r with st := .idle } ∧ encTaken r i = some (r.acc, true) ∧
      encAccepted r i = none) := by
  cases h : r.st with
  | idle => exact absurd h hst
  | payload =>
    cases ho : i.oReady <;> cases hv : i.pValid <;> simp [encNext, encTaken, encAccepted, encOut, h, ho, hv]
  | _ => cases ho : i.oReady <;> simp [encNext, encTaken, encAccepted, encOut, h, ho]

/-- A cycle takes a payload byte, or leaves as many wanted as before. -/
theorem wanted_encNext {r : EncRegs} (h : r.Ok) (hst : r.st ≠ .idle) (i : EncIn) :
    r.wanted = (encAccepted r i).toList.length + (encNext r i).wanted := by
  obtain ⟨-, hn, -, ha⟩ | ⟨hs, hn, -, ha⟩ | ⟨hs, hn, -, ha⟩ | ⟨hs, hn, -, ha⟩ | ⟨hs, hn, -, ha⟩ := encNext_cases hst i <;>
    rw [hn, ha]
  · simp
  · simp [EncRegs.wanted, hs]
  · by_cases hlen : 0 < r.len <;> simp [EncRegs.wanted, hs, hlen]; omega
  · have hcnt := h.cntPayload hs
    by_cases hlast : r.cnt + 1 = r.len <;> simp [EncRegs.wanted, hs, hlast] <;> omega
  · simp [EncRegs.wanted, hs]

/-- What a cycle puts out is the head of what is owed. -/
theorem owed_encNext {r : EncRegs} (hst : r.st ≠ .idle) (i : EncIn) {p : List Byte}
    (hp : p.length = (encNext r i).wanted) :
    r.owed ((encAccepted r i).toList ++ p) = (encTaken r i).toList ++ (encNext r i).owed p := by
  obtain ⟨-, hn, ht, ha⟩ | ⟨hs, hn, ht, ha⟩ | ⟨hs, hn, ht, ha⟩ | ⟨hs, hn, ht, ha⟩ | ⟨hs, hn, ht, ha⟩ :=
    encNext_cases hst i <;> rw [hn] at hp <;> rw [hn, ht, ha]
  · simp
  · simp [EncRegs.owed, hs]
  · by_cases hlen : 0 < r.len <;> simp [EncRegs.owed, hs, hlen]
  · by_cases hlast : r.cnt + 1 = r.len <;> simp [EncRegs.owed, hs, hlast]
  · obtain rfl : p = [] := List.length_eq_zero_iff.mp hp
    simp [EncRegs.owed, hs]

theorem encSerialize_of_idle {r : EncRegs} (h : r.st = .idle) (ins : List EncIn) : encSerialize r ins = ([], [], r) := by
  cases ins <;> simp [encSerialize, h]

theorem encSerialize_cons {r : EncRegs} (h : r.st ≠ .idle) (i : EncIn) (ins : List EncIn) :
    encSerialize r (i :: ins) = ((encTaken r i).toList ++ (encSerialize (encNext r i) ins).1,
      (encAccepted r i).toList ++ (encSerialize (encNext r i) ins).2.1, (encSerialize (encNext r i) ins).2.2) := by
  simp [encSerialize, h]

/-- A frame in progress that reaches E_IDLE has taken what it wanted and put out what it owed. -/
theorem encSerialize_spec {r : EncRegs} (h : r.Ok) (ins : List EncIn) (hend : (encSerialize r ins).2.2.st = .idle) :
    (encSerialize r ins).2.1.length = r.wanted ∧ (encSerialize r ins).1 = r.owed (encSerialize r ins).2.1 := by
  induction ins generalizing r with
  | nil =>
    have hst : r.st = .idle := hend
    simp [encSerialize, EncRegs.wanted, EncRegs.owed, hst]
  | cons i ins ih =>
    by_cases hst : r.st = .idle
    · simp [encSerialize_of_idle hst, EncRegs.wanted, EncRegs.owed, hst]
    · rw [encSerialize_cons hst] at hend ⊢
      obtain ⟨hlen, hout⟩ := ih (h.next i) hend
      exact ⟨by rw [List.length_append, hlen, wanted_encNext h hst i], by rw [owed_encNext hst i hlen, hout]⟩

/-- The registers an accepted start loads are those of a frame in progress. -/
theorem EncRegs.Ok.started {n : Nat} (h : n ≤ 125) (id : Byte) : EncRegs.Ok ⟨.sync, id, n, 0, 0⟩ where
  lenBounded := h
  cntBounded := Nat.zero_le n
  cntFresh _ := rfl
  cntPayload := nofun

theorem dropLast_frameBytes (id : Byte) (p : List Byte) : (frameBytes id p).dropLast = sync :: id :: p :=
  List.dropLast_concat

/-- Settles O9: after a start the serializer owes the whole frame, and wants `len_in` payload bytes. -/
theorem serialEncoderEmitsTheFrame : Obligations.SerialEncoderEmitsTheFrame := by
  intro i ins r hr hi hlen hend
  rw [encNext_of_accepted_start hr hi hlen] at hend ⊢
  obtain ⟨hcount, hout⟩ := encSerialize_spec (.started hlen i.idIn) ins hend
  refine ⟨hcount, ?_⟩
  rw [dropLast_frameBytes]
  exact hout

/-! ## Both handshakes ready -/

/-- How many cycles a frame in progress needs before its first payload byte, with the output ready. -/
def EncRegs.lead (r : EncRegs) : Nat :=
  match r.st with
  | .idle => 0
  | .sync => 2
  | .id => 1
  | .payload => 0
  | .cks => 0

/-- How many cycles a frame in progress needs to its end, with both handshakes ready: the last is the checksum's. -/
def EncRegs.cyclesLeft (r : EncRegs) : Nat := if r.st = .idle then 0 else r.lead + r.wanted + 1

/-- The payload bytes a frame in progress takes of the inputs offered, with both handshakes ready. -/
def EncRegs.takes (r : EncRegs) (ins : List EncIn) : List Byte := ((ins.drop r.lead).take r.wanted).map EncIn.pData

/-- With both handshakes ready a cycle is one of those left, and takes the byte it is to take. -/
theorem ready_encNext {r : EncRegs} (h : r.Ok) (hst : r.st ≠ .idle) {i : EncIn}
    (hi : i.oReady = true ∧ i.pValid = true) (ins : List EncIn) :
    r.cyclesLeft = (encNext r i).cyclesLeft + 1 ∧
    r.takes (i :: ins) = (encAccepted r i).toList ++ (encNext r i).takes ins := by
  have hw := wanted_encNext h hst i
  obtain ⟨hstall, -⟩ | ⟨hs, hn, -, ha⟩ | ⟨hs, hn, -, ha⟩ | ⟨hs, hn, -, ha⟩ | ⟨hs, hn, -, ha⟩ := encNext_cases hst i
  · exact absurd hi hstall
  all_goals
    rw [hn, ha] at hw ⊢
    simp only [EncRegs.cyclesLeft, EncRegs.takes, hw]
  · simp [EncRegs.lead, hs]; omega
  · by_cases hlen : 0 < r.len <;> simp [EncRegs.lead, hs, hlen] <;> omega
  · by_cases hlast : r.cnt + 1 = r.len <;> simp [EncRegs.lead, hs, hlast, Nat.add_comm 1]
  · simp [EncRegs.lead, EncRegs.wanted, hs]

/-- With both handshakes ready, a frame in progress reaches E_IDLE in the cycles it has left, with the bytes it is to
take. -/
theorem encSerialize_ready {r : EncRegs} (h : r.Ok) {ins : List EncIn} (hlen : ins.length = r.cyclesLeft)
    (hins : ∀ x ∈ ins, x.oReady = true ∧ x.pValid = true) :
    (encSerialize r ins).2.2.st = .idle ∧ (encSerialize r ins).2.1 = r.takes ins := by
  induction ins generalizing r with
  | nil =>
    have hst : r.st = .idle := by
      by_contra hst
      simp [EncRegs.cyclesLeft, hst] at hlen
    simp [encSerialize, EncRegs.takes, hst]
  | cons i ins ih =>
    have hst : r.st ≠ .idle := by
      intro hst
      simp [EncRegs.cyclesLeft, hst] at hlen
    obtain ⟨hcycles, htakes⟩ := ready_encNext h hst (hins i List.mem_cons_self) ins
    obtain ⟨hend, hp⟩ := ih (h.next i) (by simp at hlen; omega) fun x hx => hins x (List.mem_cons_of_mem i hx)
    rw [encSerialize_cons hst]
    exact ⟨hend, by rw [htakes, hp]⟩

/-- Settles O10: after a start `n + 3` cycles are left, the first two of them before the payload. -/
theorem serialEncoderFinishes : Obligations.SerialEncoderFinishes := by
  intro i ins r hr hi hlen hcount hins
  rw [encNext_of_accepted_start hr hi hlen]
  refine encSerialize_ready (.started hlen i.idIn) (hcount.trans ?_) hins
  simp [EncRegs.cyclesLeft, EncRegs.lead, EncRegs.wanted]; omega

end Sys2Proof.Machine
end

section
/-! PROOFS. The decoder's statements (41_frame_decoder.md rules R152 to R165): one step, outcome by outcome, and `run`. -/

namespace Sys2Proof

/-! ## One step, outcome by outcome -/

/-- R152: a byte that is not SYNC is skipped. -/
theorem decodeStep_of_ne_sync (c : Config) {b : Byte} (hb : b ≠ sync) (t : List Byte) :
    decodeStep c (b :: t) = .skipped b := if_pos hb

/-- R154: an identifier outside the closed set is rejected. -/
theorem decodeStep_of_lookup_eq_none {c : Config} {id : Byte} (hid : c.lookup id = none) (t : List Byte) :
    decodeStep c (sync :: id :: t) = .unknownId id := by
  simp [decodeStep, hid]

/-- R155: without its payload and checksum, a known identifier waits. -/
theorem decodeStep_of_incomplete {c : Config} {id : Byte} {k : Kind} {t : List Byte} (hk : c.lookup id = some k)
    (hlen : t.length < k.plen + 1) : decodeStep c (sync :: id :: t) = .needMore := by
  simp [decodeStep, hk, hlen]

/-- R156: a whole candidate with a wrong checksum is rejected, whatever follows. -/
theorem decodeStep_of_wrong_checksum {c : Config} {id cks : Byte} {k : Kind} {p : List Byte} (hk : c.lookup id = some k)
    (hp : p.length = k.plen) (hcks : cks ≠ sum8 (id :: p)) (t : List Byte) :
    decodeStep c (sync :: id :: p ++ cks :: t) = .badChecksum id := by
  have hsum : ¬ cks = id + sum8 p := hcks
  simp [decodeStep, hk, ← hp, hsum]

/-- The bytes that wait (R161): none, SYNC alone, or SYNC and a known identifier without its whole frame. -/
theorem eq_of_decodeStep_eq_needMore {c : Config} {bs : List Byte} (h : decodeStep c bs = .needMore) :
    bs = [] ∨ bs = [sync] ∨
      ∃ id k t, bs = sync :: id :: t ∧ c.lookup id = some k ∧ bs.length < k.plen + 3 := by
  obtain ⟨hbs, -⟩ | ⟨_, _, -, -, e⟩ | ⟨hbs, -⟩ | ⟨_, _, -, -, e⟩ | ⟨id, t, k, rfl, hk, hlen, -⟩ | ⟨_, _, _, -, -, -, e⟩ |
    ⟨_, _, _, -, -, -, e⟩ := decodeStep_cases c bs
  · exact .inl hbs
  · cases e.symm.trans h
  · exact .inr (.inl hbs)
  · cases e.symm.trans h
  · exact .inr (.inr ⟨id, k, t, rfl, hk, Nat.add_lt_add_right hlen 2⟩)
  · cases e.symm.trans h
  · cases e.symm.trans h

/-- Settles O12: the head alone decides. -/
theorem decoderSkipsGarbage : Obligations.DecoderSkipsGarbage := by
  refine fun c => ⟨rfl, fun b t hb => ?_⟩
  rw [decodeStep_of_ne_sync c hb]
  exact ⟨rfl, rfl, rfl⟩

/-- Settles O13: the lookup finds exactly the eight identifiers. -/
theorem decoderRejectsAnUnknownIdentifier : Obligations.DecoderRejectsAnUnknownIdentifier := by
  intro c id t hid
  have hstep : decodeStep c (0xA5 :: id :: t) = .unknownId id :=
    decodeStep_of_lookup_eq_none ((lookup_eq_none c id).mpr hid) t
  rw [hstep]
  exact ⟨rfl, rfl, rfl⟩

/-- Settles O14: the length is tested before the checksum. -/
theorem decoderWaitsForTheWholeFrame : Obligations.DecoderWaitsForTheWholeFrame := by
  refine fun c => ⟨rfl, fun id k t hk hlen => ?_⟩
  have hstep : decodeStep c (0xA5 :: id :: t) = .needMore :=
    decodeStep_of_incomplete hk (Nat.lt_of_add_lt_add_right (n := 2) hlen)
  rw [hstep]
  exact ⟨rfl, rfl⟩

/-- Settles O15: all bytes but the sync byte stay, to be scanned again. -/
theorem decoderRejectsABadChecksum : Obligations.DecoderRejectsABadChecksum := by
  intro c id cks k p t hk hp hcks
  have hstep : decodeStep c (0xA5 :: id :: p ++ cks :: t) = .badChecksum id :=
    decodeStep_of_wrong_checksum hk hp hcks t
  rw [hstep]
  exact ⟨rfl, rfl, rfl, rfl⟩

/-- Settles O16: such a candidate is an encoded frame of the identifier's kind. -/
theorem decoderReturnsAValidFrame : Obligations.DecoderReturnsAValidFrame := by
  intro c id k p t hk hp
  have hbytes : 0xA5 :: id :: p ++ sum8 (id :: p) :: t = frameBytes id p ++ t := by simp [frameBytes, sync]
  obtain ⟨hdec, hid⟩ := lookup_instr c id k p hk
  have hpayload := payload_instr k p hp
  rw [hbytes, decodeStep_frameBytes_append hk hp]
  refine ⟨k.instr p, rfl, hdec, hid, hpayload, List.drop_left' ?_, rfl⟩
  rw [length_frameBytes, DecStep.consumed, hpayload, frameOverhead]

/-! ## run -/

/-- A step possible without the bytes that arrive later is made before them (R162). -/
theorem run_step_append {c : Config} {bs : List Byte} (h : decodeStep c bs ≠ .needMore) (more : List Byte) :
    run c (bs ++ more) = ⟨decodeStep c bs :: (run c (bs.drop (decodeStep c bs).consumed ++ more)).outs,
      (run c (bs.drop (decodeStep c bs).consumed ++ more)).pend⟩ := by
  have hstep := decodeStep_append c bs more h
  rw [run_step c _ (hstep ▸ h), hstep, List.drop_append_of_le_length (consumed_bounds c bs h).2]

/-- Bytes that arrive later are run on what the earlier ones left (R162): no decision waits for them or changes. -/
theorem run_append (c : Config) (more bs : List Byte) :
    run c (bs ++ more) =
      ⟨(run c bs).outs ++ (run c ((run c bs).pend ++ more)).outs, (run c ((run c bs).pend ++ more)).pend⟩ := by
  induction bs using run_induction c with
  | quiet bs h => rw [run_quiet c bs h, List.nil_append]
  | move bs h ih =>
    rw [run_step_append h, ih, run_step c bs h, List.cons_append]

/-- Garbage is skipped byte by byte, and the run goes on behind it (R152). -/
theorem run_garbage_append (c : Config) {g : List Byte} (hg : sync ∉ g) (rest : List Byte) :
    run c (g ++ rest) = ⟨g.map .skipped ++ (run c rest).outs, (run c rest).pend⟩ := by
  induction g with
  | nil => rfl
  | cons b g ih =>
    have hstep := decodeStep_of_ne_sync c (List.ne_of_not_mem_cons hg).symm (g ++ rest)
    rw [List.cons_append, run_step c _ (by simp [hstep]), hstep, DecStep.consumed, List.drop_one, List.tail_cons,
      ih (List.not_mem_of_not_mem_cons hg), List.map_cons, List.cons_append]

/-- What a run leaves are the last of its bytes. -/
theorem run_pend_suffix (c : Config) (bs : List Byte) : (run c bs).pend <:+ bs := by
  induction bs using run_induction c with
  | quiet bs h => rw [run_quiet c bs h]
  | move bs h ih =>
    rw [run_step c bs h]
    exact ih.trans (List.drop_suffix _ bs)

/-- Feeding piece by piece from a quiescent buffer adds the outcomes of one run on all the bytes. -/
theorem runPieces_eq (c : Config) (pieces : List (List Byte)) (outs : List DecStep) {pend : List Byte}
    (h : decodeStep c pend = .needMore) : Machine.runPieces c ⟨outs, pend⟩ pieces =
      ⟨outs ++ (run c (pend ++ pieces.flatten)).outs, (run c (pend ++ pieces.flatten)).pend⟩ := by
  induction pieces generalizing outs pend with
  | nil => simp [Machine.runPieces, run_quiet c pend h]
  | cons p ps ih =>
    rw [List.flatten_cons, ← List.append_assoc pend, run_append c ps.flatten (pend ++ p), ← List.append_assoc outs]
    exact ih _ (run_pend_quiet c (pend ++ p))

/-- Settles O20: the garbage gives no frame, and the encoded frame leaves nothing. -/
theorem decoderResynchronises : Obligations.DecoderResynchronises := by
  intro c g i hc hi hg
  have hrun := run_encode_append hc hi []
  rw [List.append_nil, run_quiet c [] rfl] at hrun
  rw [run_garbage_append c hg, hrun]
  simp [DecRun.frames, DecStep.frame?, List.filterMap_append, Function.comp_def]

/-- Settles O21: a run stops only where a step waits. -/
theorem runLeavesAQuiescentDecoder : Obligations.RunLeavesAQuiescentDecoder := by
  intro c pend
  have hquiet := run_pend_quiet c pend
  refine ⟨fun h => ?_, hquiet, (quiet_shape c _ hquiet).1, eq_of_decodeStep_eq_needMore hquiet⟩
  have hbounds := consumed_bounds c pend h
  rw [List.length_drop]
  omega

/-- Settles O22: by induction on the pieces, from any outcomes so far. -/
theorem decoderIsRestartable : Obligations.DecoderIsRestartable := fun c _ pieces h =>
  runPieces_eq c pieces [] h

/-- Settles O23: what is left is at most the four zeros, and would begin with SYNC. -/
theorem zeroTailLeavesNothingPending : Obligations.ZeroTailLeavesNothingPending := by
  intro c bs
  obtain ⟨hlen, hempty | ⟨t, ht⟩⟩ := quiet_shape c _ (run_pend_quiet c (bs ++ zeros 4))
  · exact hempty
  · have hzeros : (run c (bs ++ zeros 4)).pend <:+ zeros 4 :=
      List.suffix_of_suffix_length_le (run_pend_suffix c _) (List.suffix_append bs _) (by simpa using hlen)
    have hsync : sync ∈ zeros 4 := hzeros.mem (ht ▸ List.mem_cons_self)
    exact absurd (List.eq_of_mem_replicate hsync) (by decide)

end Sys2Proof
end

section
/-! PROOFS. The byte-serial decoder's statement (41_frame_decoder.md rule R170). -/

namespace Sys2Proof.Machine

/-! ## One cycle -/

theorem decInReady_iff {c : Config} {buf : List Byte} : decInReady c buf = true ↔ decodeStep c buf = .needMore :=
  decide_eq_true_iff

theorem flushes_iff {c : Config} {d : DecSel} {i : DecIn} :
    flushes c d i = true ↔ i.flush = true ∧ c.decFlushAtBlockEnd = true ∧ d = .decBlk := by
  simp only [flushes, Bool.and_eq_true, decide_eq_true_eq, and_assoc]

/-- A waiting buffer takes the byte offered. -/
theorem decAccepted_of_needMore {c : Config} {buf : List Byte} (h : decodeStep c buf = .needMore) (i : DecIn) :
    decAccepted c buf i = if i.inValid = true then [i.inData] else [] := by
  simp [decAccepted, decInReady, h]

/-- While a step is possible no byte is taken. -/
theorem decAccepted_of_ne_needMore {c : Config} {buf : List Byte} (h : decodeStep c buf ≠ .needMore) (i : DecIn) :
    decAccepted c buf i = [] := by
  simp [decAccepted, decInReady, h]

/-- A waiting buffer is flushed where R163 has it, and then takes the byte offered. -/
theorem decNext_of_needMore {c : Config} {buf : List Byte} (h : decodeStep c buf = .needMore) (d : DecSel) (i : DecIn) :
    decNext c d buf i = (if i.flush = true ∧ c.decFlushAtBlockEnd = true ∧ d = .decBlk then [] else buf) ++
      decAccepted c buf i := by
  simp [decNext, decInReady_iff.mpr h, flushes_iff]

/-- A possible step is applied, whatever the inputs. -/
theorem decNext_of_ne_needMore {c : Config} {buf : List Byte} (h : decodeStep c buf ≠ .needMore) (d : DecSel)
    (i : DecIn) : decNext c d buf i = buf.drop (decodeStep c buf).consumed :=
  if_neg fun hready => h (decInReady_iff.mp hready)

/-- A waiting buffer shows only a flush that discards bytes (R163). -/
theorem decEvents_of_needMore {c : Config} {buf : List Byte} (h : decodeStep c buf = .needMore) (d : DecSel)
    (i : DecIn) : decEvents c d buf i =
      if (i.flush = true ∧ c.decFlushAtBlockEnd = true ∧ d = .decBlk) ∧ buf ≠ [] then
        [.log .controller (.lengthMismatch buf.length)] else [] := by
  simp [decEvents, decPulse, decInReady_iff, flushes_iff, h]

/-- A possible step shows its pulse, whatever the inputs. -/
theorem decEvents_of_ne_needMore {c : Config} {buf : List Byte} (h : decodeStep c buf ≠ .needMore) (d : DecSel)
    (i : DecIn) : decEvents c d buf i = decPulse c d (decodeStep c buf) := by
  simp [decEvents, decInReady_iff, h]

theorem perform_decClk (d : DecSel) (i : DecIn) (s : State) : perform (.decClk d i) s = .next { s with
    ct := s.ct.setSerBuf (decNext s.cfg d (s.ct.serBuf d) i) d
    trace := s.trace ++ decEvents s.cfg d (s.ct.serBuf d) i } := rfl

/-- A cycle with a possible step `o` removes what `o` consumes and shows its pulse. -/
theorem perform_decClk_of_step {d : DecSel} {s : State} {o : DecStep} (h : decodeStep s.cfg (s.ct.serBuf d) = o)
    (ho : o ≠ .needMore) (i : DecIn) : perform (.decClk d i) s = .next { s with
      ct := s.ct.setSerBuf ((s.ct.serBuf d).drop o.consumed) d
      trace := s.trace ++ decPulse s.cfg d o } := by
  subst h
  rw [perform_decClk, decNext_of_ne_needMore ho, decEvents_of_ne_needMore ho]

/-- The payload port carries nothing for a frame without payload. -/
theorem framePayload_of_payload_eq_nil {f : Instr} (h : f.payload = []) : framePayload f = none := by
  cases f with
  | telem d1 d2 => cases h
  | telemNotify d1 d2 aux => cases h
  | _ => rfl

/-! ## Several cycles -/

/-- A cycle on a waiting buffer that performs no flush appends what it takes. -/
theorem decSerialize_cons_of_needMore {c : Config} {d : DecSel} {buf : List Byte} {i : DecIn}
    (h : decodeStep c buf = .needMore) (hi : ¬ (i.flush = true ∧ c.decFlushAtBlockEnd = true ∧ d = .decBlk))
    (is : List DecIn) : decSerialize c d buf (i :: is) =
      ((decSerialize c d (buf ++ decAccepted c buf i) is).1,
        decAccepted c buf i ++ (decSerialize c d (buf ++ decAccepted c buf i) is).2.1,
        (decSerialize c d (buf ++ decAccepted c buf i) is).2.2) := by
  simp only [decSerialize, decNext_of_needMore h, if_neg hi, decInReady_iff.mpr h, if_true, List.nil_append]

/-- A cycle with a possible step applies it and takes nothing. -/
theorem decSerialize_cons_of_ne_needMore {c : Config} {buf : List Byte} (h : decodeStep c buf ≠ .needMore) (d : DecSel)
    (i : DecIn) (is : List DecIn) : decSerialize c d buf (i :: is) =
      (decodeStep c buf :: (decSerialize c d (buf.drop (decodeStep c buf).consumed) is).1,
        (decSerialize c d (buf.drop (decodeStep c buf).consumed) is).2.1,
        (decSerialize c d (buf.drop (decodeStep c buf).consumed) is).2.2) := by
  simp [decSerialize, decNext_of_ne_needMore h, decAccepted_of_ne_needMore h, decInReady_iff, h]

/-- The buffer stays within five bytes over any cycles. -/
theorem decSerialize_length (c : Config) (d : DecSel) {buf : List Byte} (ins : List DecIn)
    (h : buf.length ≤ maxDeclFrame) : (decSerialize c d buf ins).2.2.length ≤ maxDeclFrame := by
  induction ins generalizing buf with
  | nil => exact h
  | cons i is ih => exact ih (decNext_length c d buf i h)

/-- As long as no flush is performed, the steps applied are the first of a run on all the bytes held and taken. -/
theorem run_decSerialize {c : Config} {d : DecSel} {ins : List DecIn}
    (hins : ∀ x ∈ ins, ¬ (x.flush = true ∧ c.decFlushAtBlockEnd = true ∧ d = .decBlk)) (buf : List Byte) :
    run c (buf ++ (decSerialize c d buf ins).2.1) =
      ⟨(decSerialize c d buf ins).1 ++ (run c (decSerialize c d buf ins).2.2).outs,
        (run c (decSerialize c d buf ins).2.2).pend⟩ := by
  induction ins generalizing buf with
  | nil => simp [decSerialize]
  | cons i is ih =>
    obtain ⟨hi, his⟩ := List.forall_mem_cons.mp hins
    by_cases h : decodeStep c buf = .needMore
    · rw [decSerialize_cons_of_needMore h hi, ← List.append_assoc, ih his]
    · rw [decSerialize_cons_of_ne_needMore h, run_step_append h, ih his, List.cons_append]

/-- Settles O25: each cycle either appends what it takes or applies a step of `run`, and its pulses are read off the
outcome. -/
theorem serialDecoderAgreesWithRun : Obligations.SerialDecoderAgreesWithRun := by
  refine ⟨fun c d buf ins hlen hins => ⟨decSerialize_length c d ins hlen, run_decSerialize hins buf⟩, fun d i s => ?_⟩
  refine ⟨fun h => ?_, fun b h => ?_, fun id h => ?_, fun id h => ?_, fun d1 d2 h => ?_, fun f h hf => ?_⟩
  · rw [perform_decClk, decNext_of_needMore h, decAccepted_of_needMore h, decEvents_of_needMore h]
  · exact perform_decClk_of_step h nofun i
  · exact perform_decClk_of_step h nofun i
  · exact perform_decClk_of_step h nofun i
  · exact perform_decClk_of_step h nofun i
  · rw [perform_decClk_of_step h nofun i, DecStep.consumed, hf, decPulse, framePayload_of_payload_eq_nil hf]
    rfl

end Sys2Proof.Machine
end

section
/-! PROOFS. The command model's statements (42_command_model.md): frames in flight are dispatched one a step and in order
(R182), and only a dispatch moves a channel's last command (R41, R43, R322). -/

namespace Sys2Proof.Machine

/-! ## Who writes a channel's last command -/

theorem evtStep_actLast (s : State) (ch : Channel) : (evtStep s).ct.actLast ch = s.ct.actLast ch := by
  obtain ⟨q, o, d, k, c, es, pc, l, e, -⟩ := evtStep_frame s
  rw [e]

/-- Of the rules of `BML` only the failed exchange writes the controller, and no last command of it. -/
theorem bmlStep_actLast {s t : State} (h : bmlStep s = .next t) (ch : Channel) : t.ct.actLast ch = s.ct.actLast ch := by
  obtain rfl | ⟨-, -, rfl⟩ | ⟨-, -, rfl⟩ | ⟨-, -, rfl⟩ | ⟨-, -, l, d1, d2, -, rfl⟩ | ⟨-, -, l, -, rfl⟩ | ⟨-, rfl⟩ |
    ⟨d, -, rfl⟩ | ⟨d, o, -, -, -, -, rfl⟩ | ⟨d, o, -, -, rfl⟩ | ⟨-, rfl⟩ | ⟨d1, d2, aux, a, b, l, -, rfl⟩ | ⟨-, rfl⟩ |
    ⟨f, d1, d2, aux, -, rfl | ⟨-, rfl⟩⟩ := bmlStep_cases h
  all_goals rfl

theorem exchangeStep_actLast {s t : State} (h : exchangeStep s = .next t) (ch : Channel) :
    t.ct.actLast ch = s.ct.actLast ch := by
  obtain ⟨-, rfl⟩ | ⟨-, -, -, rfl⟩ | ⟨-, -, -, rfl⟩ := exchangeStep_cases h <;> rfl

theorem composeStep_actLast (s : State) (ch : Channel) : (composeStep s).ct.actLast ch = s.ct.actLast ch := by
  obtain e | ⟨b, -, -, -, e⟩ := composeStep_shape s <;> rw [e]
  rfl

theorem encCycle_actLast (e : EncSel) (i : EncIn) (s : State) (ch : Channel) :
    (encCycle e i s).ct.actLast ch = s.ct.actLast ch := by
  cases e <;> rfl

@[simp] theorem latch_actLast (p : Pins) (s : State) (ch : Channel) : (latch p s).ct.actLast ch = s.ct.actLast ch := by
  cases ch <;> simp [Controller.actLast]

/-- From `s` to `t`, agent `a` dispatches a frame that commands channel `ch`, and its actuator output is the last
(R182, R184 to R189). -/
def DispatchMoves (a : Agent) (ch : Channel) (s t : State) : Prop :=
  ∃ i cmd l, dispatched a s = some i ∧ commandOf i = some (ch, cmd) ∧ t.ct.actLast ch = some cmd ∧
    t.trace = s.trace ++ l ++ [.act ch cmd (ActParam.get s.cfg.actParam ch cmd)]

/-- Of the agents only `CML` moves a channel's last command, by a dispatch in one of its two steps that decode. -/
theorem runAgent_actLast {a : Agent} {s t : State} (h : runAgent a s = .next t) (ch : Channel) :
    t.ct.actLast ch = s.ct.actLast ch ∨ ((a = .cml ∨ a = .uart) ∧ DispatchMoves a ch s t) := by
  cases a with
  | evt => obtain rfl := Host.Outcome.next.inj h; exact .inl (evtStep_actLast s ch)
  | bml => exact .inl (bmlStep_actLast h ch)
  | exchange => exact .inl (exchangeStep_actLast h ch)
  | compose => obtain rfl := Host.Outcome.next.inj h; exact .inl (composeStep_actLast s ch)
  | cml => exact ((cmlStep_frame h).1.act ch).imp_right fun hmoves => ⟨.inl rfl, hmoves⟩
  | uart => exact ((uartStep_frame h).1.act ch).imp_right fun hmoves => ⟨.inr rfl, hmoves⟩

/-- A stimulus but a reset of the controller moves a channel's last command only by an agent's dispatch. -/
theorem perform_actLast {x : Stim} {s t : State} (h : perform x s = .next t) (hx : x ≠ .resetController) (ch : Channel) :
    t.ct.actLast ch = s.ct.actLast ch ∨
    ∃ a p, x = .run a p ∧ (a = .cml ∨ a = .uart) ∧ DispatchMoves a ch (latch p s) t := by
  cases x with
  | run a p =>
    rw [← latch_actLast p s]
    exact (runAgent_actLast h ch).imp_right fun hmoves => ⟨a, p, rfl, hmoves⟩
  | arrive e => obtain rfl := Host.Outcome.next.inj h; exact .inl rfl
  | resetBridge => obtain rfl := Host.Outcome.next.inj h; exact .inl rfl
  | resetController => exact absurd rfl hx
  | encClk e i => obtain rfl := Host.Outcome.next.inj h; exact .inl (encCycle_actLast e i s ch)
  | decClk d i => obtain rfl := Host.Outcome.next.inj h; exact .inl (setSerBuf_actLast _ _ d ch)

/-- Settles O60: taking the stimulus and latching its draws touch neither the trace nor a last command, and of the agents'
steps only the two that dispatch move one. -/
theorem onlyDispatchedFramesMoveActuators : Obligations.OnlyDispatchedFramesMoveActuators := by
  intro s t ch h hr
  obtain hkept | ⟨a, p, hx, ha, i, cmd, l, hi, hcmd, hlast, htrace⟩ := perform_actLast (step_next h).2 hr ch
  · exact .inl (by rw [hkept, takeStim_ct])
  · exact .inr ⟨a, p, i, cmd, l, hx, ha, hi, hcmd, hlast, by simpa using htrace⟩

/-! ## Frames in flight -/

/-- The state with these frames in flight. -/
def State.withInflight (s : State) (fs : List Instr) : State := { s with ct := { s.ct with inflight := fs } }

theorem radioSend_withInflight (note : List Byte) (s : State) (fs : List Instr) :
    radioSend note (s.withInflight fs) = (radioSend note s).withInflight fs := by
  obtain ⟨hok, e⟩ | ⟨hok, e⟩ := radioSend_shape note s <;>
    obtain ⟨hok', e'⟩ | ⟨hok', e'⟩ := radioSend_shape note (s.withInflight fs)
  · rw [e, e']; rfl
  · exact absurd (hok.symm.trans hok') nofun
  · exact absurd (hok.symm.trans hok') nofun
  · rw [e, e']; rfl

/-- A meaning neither reads nor writes the frames in flight. -/
theorem exec_withInflight {i : Instr} {s t : State} (h : exec i s = .next t) (fs : List Instr) :
    exec i (s.withInflight fs) = .next (t.withInflight fs) := by
  cases i with
  | telemNotify d1 d2 aux =>
    by_cases hlen : aux.length ≤ 123
    · rw [exec_telemNotify_of_le hlen] at h ⊢
      obtain rfl := Host.Outcome.next.inj h
      rw [radioSend_withInflight]
    · rw [exec_telemNotify_of_gt (by omega)] at h ⊢
      obtain rfl := Host.Outcome.next.inj h
      rfl
  | _ => obtain rfl := Host.Outcome.next.inj h; rfl

/-- R182: with frames in flight, a step executes the oldest. -/
theorem cmlStep_withInflight_cons (i : Instr) (fs : List Instr) (s : State) :
    cmlStep (s.withInflight (i :: fs)) = andThen (exec i (s.withInflight fs)) fun t => .next (settle t) := rfl

/-- With frames still in flight `c_st` stays (R212). -/
theorem settle_withInflight_cons (s : State) (i : Instr) (fs : List Instr) :
    settle (s.withInflight (i :: fs)) = s.withInflight (i :: fs) := rfl

/-- With none left the controller polls (R212). -/
theorem settle_withInflight_nil (s : State) :
    settle (s.withInflight []) = { s with ct := { s.ct with inflight := [], cSt := .poll } } := rfl

/-- As many steps as there are frames in flight execute them in order, and then `c_st` is C_POLL. -/
theorem cmlSteps_withInflight {fs : List Instr} (hfs : fs ≠ []) (s : State) :
    cmlSteps fs.length (s.withInflight fs) =
      andThen (execAll fs (s.withInflight [])) (fun t => .next { t with ct := { t.ct with cSt := .poll } }) := by
  induction fs generalizing s with
  | nil => exact absurd rfl hfs
  | cons i fs ih =>
    obtain ⟨t, ht⟩ := exec_total i s
    rw [List.length_cons, cmlSteps, cmlStep_withInflight_cons, execAll]
    simp only [exec_withInflight ht, andThen_next]
    cases fs with
    | nil => rw [settle_withInflight_nil]; rfl
    | cons j fs => rw [settle_withInflight_cons]; exact ih (List.cons_ne_nil j fs) t

/-- Settles O30: each step executes the oldest frame, whatever is behind it, so the steps are `execAll`; by induction on
the frames. -/
theorem framesInFlightExecuteInOrder : Obligations.FramesInFlightExecuteInOrder := fun s hs =>
  cmlSteps_withInflight hs s

end Sys2Proof.Machine
end

section
/-! PROOFS. The transport link's statements (43_transport_link.md): the producer's cycle (R203 to R207), the exchange (R206,
R210), and the consumer's loop (R211 to R213). -/

namespace Sys2Proof.Machine

/-! ## The prepared block is held -/

/-- R204: from P_PREPARED the main loop asserts ready. -/
theorem bmlStep_of_prepared {s : State} (hp : s.br.pSt = .prepared) (hpc : s.br.bmlPc = .idle) :
    bmlStep s = .next (assertReady s) := by
  simp [bmlStep, hpc, hp]

/-- Of the rules of `BML`, only the load in P_WAIT and the override write `b_tx`. -/
theorem bmlStep_bTx {s t : State} (h : bmlStep s = .next t) :
    t.br.bTx = s.br.bTx ∨ s.br.pSt = .wait ∨ ∃ d o, s.br.bmlPc = .override d o := by
  obtain rfl | ⟨-, hp, -⟩ | ⟨-, -, rfl⟩ | ⟨-, -, rfl⟩ | ⟨-, -, l, d1, d2, -, rfl⟩ | ⟨-, -, l, -, rfl⟩ | ⟨-, rfl⟩ |
    ⟨d, -, rfl⟩ | ⟨d, o, hpc, -⟩ | ⟨d, o, -, -, rfl⟩ | ⟨-, rfl⟩ | ⟨d1, d2, aux, a, b, l, -, rfl⟩ | ⟨-, rfl⟩ |
    ⟨f, d1, d2, aux, -, rfl | ⟨-, rfl⟩⟩ := bmlStep_cases h
  -- the rules that leave `b_tx`
  any_goals exact .inl rfl
  · exact .inr (.inl hp)
  · exact .inr (.inr ⟨d, o, hpc⟩)

/-- Settles O55: of a sound state's steps, those that write `b_tx` start in P_WAIT, the override among them. -/
theorem preparedBlockIsAnnouncedAndHeld : Obligations.PreparedBlockIsAnnouncedAndHeld := by
  refine ⟨fun s hp hpc => bmlStep_of_prepared hp hpc, fun s t hinv hwait hr h => ?_⟩
  obtain ⟨hk, -⟩ | ⟨u, hbr, -, rfl | hbml⟩ := step_memory h hr
  · exact hk.bTx
  · exact (evtStep_keeps_bTx_bmlPc u).1.trans (congrArg Bridge.bTx hbr)
  · have hcases := bmlStep_bTx hbml
    rw [hbr] at hcases
    obtain hkept | hp | ⟨d, o, hpc⟩ := hcases
    · exact hkept
    · exact absurd hp hwait
    · exact absurd (hinv.fits hpc) hwait

/-! ## The consumer leaves C_POLL only by a completed exchange -/

theorem evtStep_ct (s : State) : (evtStep s).ct = s.ct := by
  obtain ⟨q, o, d, k, c, es, pc, l, e, -⟩ := evtStep_frame s
  rw [e]

/-- Of the rules of `BML` only the failed exchange writes the controller, and not `c_st`. -/
theorem bmlStep_cSt {s t : State} (h : bmlStep s = .next t) : t.ct.cSt = s.ct.cSt := by
  obtain rfl | ⟨-, -, rfl⟩ | ⟨-, -, rfl⟩ | ⟨-, -, rfl⟩ | ⟨-, -, l, d1, d2, -, rfl⟩ | ⟨-, -, l, -, rfl⟩ | ⟨-, rfl⟩ |
    ⟨d, -, rfl⟩ | ⟨d, o, -, -, -, -, rfl⟩ | ⟨d, o, -, -, rfl⟩ | ⟨-, rfl⟩ | ⟨d1, d2, aux, a, b, l, -, rfl⟩ | ⟨-, rfl⟩ |
    ⟨f, d1, d2, aux, -, rfl | ⟨-, rfl⟩⟩ := bmlStep_cases h
  all_goals rfl

theorem composeStep_cSt (s : State) : (composeStep s).ct.cSt = s.ct.cSt := by
  obtain e | ⟨b, -, -, -, e⟩ := composeStep_shape s <;> rw [e]

/-- From `s` to `t` an exchange completes under ready, its outcome drawn ok (R206). -/
structure Completes (s t : State) : Prop where
  enabled : exchangeEnabled s = true
  ready : s.br.ready = true
  drawn : s.env.pins.xferOk = true
  eq : t = completeExchange s

/-- A step of an agent keeps `c_st`, returns to C_POLL, or completes an exchange. -/
theorem runAgent_cSt {a : Agent} {s t : State} (h : runAgent a s = .next t) :
    (t.ct.cSt = s.ct.cSt ∨ t.ct.cSt = .poll) ∨ (a = .exchange ∧ Completes s t) := by
  cases a with
  | evt => obtain rfl := Host.Outcome.next.inj h; exact .inl (.inl (congrArg Controller.cSt (evtStep_ct s)))
  | bml => exact .inl (.inl (bmlStep_cSt h))
  | exchange =>
    obtain ⟨-, rfl⟩ | ⟨hen, hready, hok, e⟩ | ⟨-, -, -, rfl⟩ := exchangeStep_cases h
    · exact .inl (.inl rfl)
    · exact .inr ⟨rfl, hen, hready, hok, e⟩
    · exact .inl (.inl rfl)
  | compose => obtain rfl := Host.Outcome.next.inj h; exact .inl (.inl (composeStep_cSt s))
  | cml => exact .inl (cmlStep_frame h).1.cSt
  | uart => exact .inl (uartStep_frame h).1.cSt

/-- The same of a stimulus: a reset of the controller returns to C_POLL, and the clock cycles, the arrivals and a reset of
the bridge keep `c_st`. -/
theorem perform_cSt {x : Stim} {s t : State} (h : perform x s = .next t) :
    (t.ct.cSt = s.ct.cSt ∨ t.ct.cSt = .poll) ∨ ∃ p, x = .run .exchange p ∧ Completes (latch p s) t := by
  cases x with
  | run a p =>
    rw [← latch_ct_cSt p s]
    exact (runAgent_cSt h).imp_right fun ⟨ha, hcomp⟩ => ⟨p, by rw [ha], hcomp⟩
  | arrive e => obtain rfl := Host.Outcome.next.inj h; exact .inl (.inl rfl)
  | resetBridge => obtain rfl := Host.Outcome.next.inj h; exact .inl (.inl rfl)
  | resetController => obtain rfl := Host.Outcome.next.inj h; exact .inl (.inr rfl)
  | encClk e i => obtain rfl := Host.Outcome.next.inj h; cases e <;> exact .inl (.inl rfl)
  | decClk d i => obtain rfl := Host.Outcome.next.inj h; exact .inl (.inl (setSerBuf_cSt _ _ d))

/-- Settles O57: a step into C_DECODE completes an exchange, and that swaps the blocks as they were. -/
theorem blocksMoveOnlyUnderReady : Obligations.BlocksMoveOnlyUnderReady := by
  intro s t hpoll h hdecode
  obtain (hkept | hpolls) | ⟨p, hx, hen, hready, hok, rfl⟩ := perform_cSt (step_next h).2
  · rw [hdecode, takeStim_ct, hpoll] at hkept
    cases hkept
  · cases hdecode.symm.trans hpolls
  · have hp := pSt_of_exchangeEnabled hen
    simp only [latch_br, takeStim_br, latch_env_pins] at hready hok hp
    exact ⟨hready, hp, ⟨p, hx, hok⟩, by simp [completeExchange], by simp [completeExchange]⟩

/-! ## Decode and dispatch -/

/-- R182: dispatch executes the oldest frame in flight. -/
theorem dispatchNext_of_cons {s : State} {i : Instr} {fs : List Instr} (h : s.ct.inflight = i :: fs) :
    dispatchNext s = andThen (exec i (s.withInflight fs)) fun t => .next (settle t) := by
  simp only [dispatchNext, h]
  rfl

/-- With nothing to dispatch the controller polls. -/
theorem dispatchNext_of_nil {s : State} (h : s.ct.inflight = []) :
    dispatchNext s = .next { s with ct := { s.ct with cSt := .poll } } := by
  simp only [dispatchNext, h, settle, if_true]

/-- R213: the UART source is polled in C_POLL, with nothing in flight and something delivered. -/
theorem uartStep_of_enabled {s : State} (hc : s.ct.cSt = .poll) (hf : s.ct.inflight = []) (hu : s.env.pins.uartIn ≠ []) :
    uartStep s = dispatchNext (decodeUart s) := if_pos ⟨hc, hf, hu⟩

/-- Settles O27: the poll dispatches what the run puts in flight. -/
theorem uartPollExecutesTheDecodedFrame : Obligations.UartPollExecutesTheDecodedFrame := by
  intro s hc hf hu
  refine ⟨fun i fs hr => ?_, fun hr => ?_⟩ <;> refine (uartStep_of_enabled hc hf hu).trans ?_
  · exact dispatchNext_of_cons (s := decodeUart s) hr
  · rw [dispatchNext_of_nil (s := decodeUart s) hr]
    simp [decodeUart, State.emits, hr, hc, hf]

/-- A run on the bytes of one frame returns that frame and leaves nothing. -/
theorem run_encode {c : Config} {i : Instr} (hc : c.idsDistinct = true) (hi : i.decodable = true) :
    run c (encode c i) = ⟨[.frame i], []⟩ := by
  have hrun := run_encode_append hc hi []
  rwa [List.append_nil, run_quiet c [] rfl] at hrun

/-- A returned frame logs nothing (R157). -/
theorem runLog_frame (i : Instr) : runLog [.frame i] = [] := rfl

/-- A UART poll that delivers one frame to an empty decoder is `exec` of that frame, and the return to C_POLL. -/
theorem uartStep_of_encode {s : State} {i : Instr} (hids : s.cfg.idsDistinct = true) (hi : i.decodable = true)
    (hu : s.env.pins.uartIn = encode s.cfg i) (hc : s.ct.cSt = .poll) (hf : s.ct.inflight = []) (hd : s.ct.decUart = []) :
    uartStep s = andThen (exec i s) fun t => .next (settle t) := by
  have hrun : run s.cfg (feed s.ct.decUart s.env.pins.uartIn) = ⟨[.frame i], s.ct.decUart⟩ := by
    rw [hd, hu]
    exact run_encode hids hi
  have hpoll := (uartPollExecutesTheDecodedFrame s hc hf (by rw [hu]; exact nofun)).1 i s.ct.inflight
  rw [hrun] at hpoll
  simp only [runLog_frame, List.append_nil] at hpoll
  exact hpoll (by rw [hf]; rfl)

/-- Settles O28: the step takes the stimulus, latches its draws and polls the UART. -/
theorem stepRunsTheFrameItReads : Obligations.StepRunsTheFrameItReads := by
  intro s p xs i hwf hi hin hu hc hf hd
  have hids : s.cfg.idsDistinct = true := (Bool.and_eq_true_iff.mp hwf).1
  rw [step_eq s hwf, nextStim_supplied hin, takeStim_supplied hin]
  exact uartStep_of_encode (by simpa using hids) hi (by simpa using hu) (by simpa using hc) (by simpa using hf)
    (by simpa using hd)

/-- R212: in C_DECODE the received block is decoded and its first frame dispatched. -/
theorem cmlStep_of_decode {s : State} (hc : s.ct.cSt = .decode) (hf : s.ct.inflight = []) :
    cmlStep s = dispatchNext (decodeBlk s) := by
  simp [cmlStep, hc, hf]

/-- R163: the flush, where it discards a tail and where it does nothing, as one update. -/
theorem flushBlk_eq (s : State) :
    let flushed := s.cfg.decFlushAtBlockEnd = true ∧ s.ct.decBlk ≠ []
    flushBlk s = { s with
      ct := { s.ct with decBlk := if flushed then [] else s.ct.decBlk }
      trace := s.trace ++ if flushed then [.log .controller (.lengthMismatch s.ct.decBlk.length)] else [] } := by
  intro flushed
  by_cases h : flushed
  · simp only [if_pos h]
    exact if_pos h
  · simp only [if_neg h, List.append_nil]
    exact if_neg h

/-- R212, R163: decoding a block writes `dec_blk`, the frames in flight, and the log of the run and of the flush. -/
theorem decodeBlk_eq (s : State) :
    let r := run s.cfg (feed s.ct.decBlk s.ct.cRx)
    let flushed := s.cfg.decFlushAtBlockEnd = true ∧ r.pend ≠ []
    decodeBlk s = { s with
      ct := { s.ct with decBlk := if flushed then [] else r.pend, inflight := r.frames }
      trace := s.trace ++
        (runLog r.outs ++ if flushed then [.log .controller (.lengthMismatch r.pend.length)] else []) } := by
  intro r flushed
  rw [← List.append_assoc]
  exact flushBlk_eq _

/-- Settles O29: the step dispatches what decoding the block puts in flight. -/
theorem blockDecodeExecutesTheFirstFrame : Obligations.BlockDecodeExecutesTheFirstFrame := by
  intro s hc hf r flushed logs pend
  have hstep : runAgent .cml s = dispatchNext (decodeBlk s) := cmlStep_of_decode hc hf
  rw [hstep, decodeBlk_eq s]
  refine ⟨fun i fs hr => dispatchNext_of_cons hr, fun hr => ?_⟩
  rw [dispatchNext_of_nil hr, show r.frames = s.ct.inflight from hr.trans hf.symm]

/-! ## The preparation -/

theorem prepareEnabled_iff (s : State) :
    prepareEnabled s = true ↔ s.br.q ≠ [] ∨ s.cfg.queueWaitTimeout ≤ s.env.now - s.br.waitT0 := by
  simp [prepareEnabled, waitExpired]

/-- R203: a cycle that may start loads `b_tx`. -/
theorem bmlStep_of_wait {s : State} (hp : s.br.pSt = .wait) (hpc : s.br.bmlPc = .idle) (he : prepareEnabled s = true) :
    bmlStep s = .next { s with
      br := { s.br with q := s.br.q.tail, bTx := s.br.q.headD (zeros blockSize), bmlPc := .takeDisc } } := by
  simp only [bmlStep, hpc, hp, he, if_true, loadBTx_wait s hp]
  rfl

/-- R203: a cycle that may not start waits. -/
theorem bmlStep_of_waiting {s : State} (hp : s.br.pSt = .wait) (hpc : s.br.bmlPc = .idle)
    (he : ¬ prepareEnabled s = true) : bmlStep s = .next s := by
  simp [bmlStep, hpc, hp, he]

theorem bmlStep_of_takeDisc {s : State} (hpc : s.br.bmlPc = .takeDisc) :
    bmlStep s = .next ((xchgDisc s).2.goto (.takeOvf s.br.discTrig)) := by
  simp [bmlStep, hpc, xchgDisc]

/-- R263: in P_WAIT the override makes `b_tx` the brake block if a trigger is remembered, and leaves it otherwise. -/
theorem bmlStep_of_override_wait {s : State} {d o : Bool} (hp : s.br.pSt = .wait) (hpc : s.br.bmlPc = .override d o) :
    bmlStep s = .next { s with br := { s.br with
      bTx := if d = true ∨ o = true then brakeBlock s.cfg else s.br.bTx, bmlPc := .prepDone } } := by
  by_cases hdo : d = true ∨ o = true
  · rw [bmlStep_of_override hpc hdo, failSafeEntry, writeBTx_wait _ s hp, if_pos hdo]
    rfl
  · simp only [bmlStep, hpc, if_neg hdo]
    rw [if_neg (by simpa using hdo)]
    rfl

/-- One step, and then the others. -/
theorem bmlSteps_succ {n : Nat} {s t : State} (h : bmlStep s = .next t) : bmlSteps (n + 1) s = bmlSteps n t := by
  rw [bmlSteps, h, andThen_next]

/-- Settles O37: the five steps one by one, all in P_WAIT. -/
theorem preparationTakesTheEntryOrBrakes : Obligations.PreparationTakesTheEntryOrBrakes := by
  intro s hp hpc
  rw [← prepareEnabled_iff]
  refine ⟨fun he => ?_, fun hq hnow => ?_⟩
  · refine .trans (bmlSteps_succ (bmlStep_of_wait hp hpc he)) ?_
    refine .trans (bmlSteps_succ (bmlStep_of_takeDisc rfl)) ?_
    refine .trans (bmlSteps_succ (bmlStep_of_takeOvf rfl)) ?_
    refine .trans (bmlSteps_succ (bmlStep_of_override_wait hp rfl)) ?_
    refine .trans (bmlSteps_succ (bmlStep_of_prepDone rfl)) ?_
    rw [bmlSteps]
    simp [xchgDisc, xchgOvf, State.goto, hpc, blockSize]
  · refine bmlStep_of_waiting hp hpc fun he => ?_
    obtain hne | hexp := (prepareEnabled_iff s).mp he
    · exact hne hq
    · omega

/-! ## Composing -/

/-- R211: with telemetry drawn, the block is its frame at offset 0 and zeros. -/
theorem consumerBlock_some (c : Config) (d1 d2 : Byte) :
    consumerBlock c (some (d1, d2)) = some ([0xA5, 0x60, d1, d2, 0x60 + d1 + d2] ++ zeros 123) := by
  have hlen : (encode c (.telem d1 d2)).length = 5 := length_frameBytes _ _
  have hfits : [encode c (.telem d1 d2)].flatten.length ≤ blockSize := by simp [hlen, blockSize]
  rw [consumerBlock, pack, if_pos hfits, pad128_of_le _ hfits, List.flatten_singleton, hlen, encode_telem]
  rfl

/-- R211: where composing is enabled the drawn block goes to `c_tx`. -/
theorem composeStep_of_enabled {s : State} {b : Block} (hc : s.ct.cSt = .poll) (hf : s.ct.inflight = [])
    (hcomp : s.ct.composed = false) (hr : readyObserved s = true) (hb : consumerBlock s.cfg s.env.pins.telemIn = some b) :
    composeStep s = { s with ct := { s.ct with cTx := b, composed := true } } := by
  rw [composeStep, if_pos ⟨hc, hf, hcomp, hr⟩, hb]

theorem composeStep_of_not_enabled {s : State}
    (h : ¬ (s.ct.cSt = .poll ∧ s.ct.inflight = [] ∧ s.ct.composed = false ∧ readyObserved s = true)) :
    composeStep s = s := if_neg h

theorem readyObserved_iff (s : State) : readyObserved s = true ↔ s.ct.rdySync = true ∧ s.br.ready = true :=
  Bool.and_eq_true_iff

/-- Settles O40: the block is the one drawn, and the five guards are those of R211. -/
theorem consumerComposesItsTelemetryBlock : Obligations.ConsumerComposesItsTelemetryBlock := by
  intro s
  refine ⟨fun hc hf hcomp hsync hready => ?_, fun hguard => ?_⟩
  · have hr := (readyObserved_iff s).mpr ⟨hsync, hready⟩
    refine ⟨fun hin => ?_, fun d1 d2 hin => ?_⟩ <;>
      refine congrArg Host.Outcome.next (composeStep_of_enabled hc hf hcomp hr ?_) <;> rw [hin]
    · rfl
    · exact consumerBlock_some s.cfg d1 d2
  · refine congrArg Host.Outcome.next (composeStep_of_not_enabled ?_)
    rintro ⟨hc, hf, hcomp, hr⟩
    obtain ⟨hsync, hready⟩ := (readyObserved_iff s).mp hr
    simp [hc, hf, hcomp, hsync, hready] at hguard

/-! ## The exchange -/

theorem exchangeEnabled_iff (s : State) : exchangeEnabled s = true ↔
    s.br.pSt = .ready ∧ s.ct.cSt = .poll ∧ s.ct.inflight = [] ∧ s.ct.composed = true := by
  simp [exchangeEnabled, and_assoc]

/-- R206: under ready, the drawn outcome decides an enabled exchange. -/
theorem exchangeStep_of_enabled {s : State} (he : exchangeEnabled s = true) (hr : s.br.ready = true) :
    exchangeStep s = .next (if s.env.pins.xferOk then completeExchange s else failInitiated s) :=
  (if_pos he).trans (if_pos hr)

theorem exchangeStep_of_not_enabled {s : State} (h : ¬ exchangeEnabled s = true) : exchangeStep s = .next s :=
  if_neg h

/-- Settles O41: the guards of R206, and the two drawn outcomes. -/
theorem exchangeSwapsTheBlocksOrFails : Obligations.ExchangeSwapsTheBlocksOrFails := by
  intro s
  refine ⟨fun hp hr hc hf hcomp => ?_, fun hguard => exchangeStep_of_not_enabled fun he => ?_⟩
  · have hstep : runAgent .exchange s = _ :=
      exchangeStep_of_enabled ((exchangeEnabled_iff s).mpr ⟨hp, hc, hf, hcomp⟩) hr
    exact ⟨fun hok => by rw [hstep, hok]; rfl, fun hok => by rw [hstep, hok]; rfl⟩
  · obtain ⟨hp, hc, hf, hcomp⟩ := (exchangeEnabled_iff s).mp he
    simp [hp, hc, hf, hcomp] at hguard

/-- From `s` to `t` an exchange fails (R207): ready and `xfer_ok` fall, the cycle goes to P_POST, nothing is queued again,
and neither the decoder of blocks nor the controller's loop or commands see anything. -/
structure DeliversNothing (s t : State) : Prop where
  decBlk : t.ct.decBlk = s.ct.decBlk
  cSt : t.ct.cSt = s.ct.cSt
  actLift : t.ct.actLift = s.ct.actLift
  actTilt : t.ct.actTilt = s.ct.actTilt
  ready : t.br.ready = false
  xferOk : t.br.xferOk = false
  pSt : t.br.pSt = .post
  q : t.br.q = s.br.q

theorem failExchange_deliversNothing (s : State) : DeliversNothing s (failExchange s) :=
  ⟨rfl, rfl, rfl, rfl, rfl, rfl, rfl, rfl⟩

/-- R292: the controller's log of E10 is all that a drawn failure adds. -/
theorem failInitiated_deliversNothing (s : State) : DeliversNothing s (failInitiated s) :=
  { failExchange_deliversNothing s with }

theorem failExchange_trace (s : State) : (failExchange s).trace = s.trace ++ [.log .bridge .exchangeFailed] := rfl

/-- A block that waits to be decoded stays (notes/assumptions/7.md). -/
theorem failExchange_cRx_of_decode {s : State} (hc : s.ct.cSt = .decode) : (failExchange s).ct.cRx = s.ct.cRx :=
  if_neg (by simp [hc])

/-- R205, R207: in P_READY the main loop holds until the timeout. -/
theorem bmlStep_of_ready {s : State} (hp : s.br.pSt = .ready) (hpc : s.br.bmlPc = .idle) :
    bmlStep s = .next (if xferExpired s then failExchange s else s) := by
  simp only [bmlStep, hpc, hp]

theorem xferExpired_iff (s : State) : xferExpired s = true ↔ s.cfg.xferTimeout ≤ s.env.now - s.br.xferT0 :=
  decide_eq_true_iff

/-- Settles O42: both failures are `failExchange`, a drawn one with the controller's log. -/
theorem failedExchangeDeliversNothing : Obligations.FailedExchangeDeliversNothing := by
  intro s hp hr hpc
  have hbml : runAgent .bml s = _ := bmlStep_of_ready hp hpc
  refine ⟨fun ⟨hc, hf, hcomp, hok⟩ => ?_, fun hexp => ?_, fun hbefore => ?_⟩
  · have hfail := failInitiated_deliversNothing s
    exact ⟨failInitiated s, ((exchangeSwapsTheBlocksOrFails s).1 hp hr hc hf hcomp).2 hok, hfail.decBlk, hfail.cSt.trans hc,
      hfail.actLift, hfail.actTilt, hfail.ready, hfail.xferOk, hfail.pSt, hfail.q, by simp [failExchange_trace]⟩
  · have hfail := failExchange_deliversNothing s
    rw [hbml, if_pos ((xferExpired_iff s).mpr hexp)]
    exact ⟨failExchange s, rfl, hfail.decBlk, hfail.cSt, hfail.actLift, hfail.actTilt, hfail.ready, hfail.xferOk, hfail.pSt,
      hfail.q, failExchange_cRx_of_decode, failExchange_trace s⟩
  · rw [hbml, if_neg (mt (xferExpired_iff s).mp (Nat.not_le.mpr hbefore))]

end Sys2Proof.Machine
end

section
/-! PROOFS. The bridge relay's statements (44_bridge_relay.md): the event context (R230 to R234, R261), the outbound path
with its gate (R236 to R245, R247), and the backoff window (R246). -/

namespace Sys2Proof.Machine

/-! ## The event context -/

/-- R293: with no handler running, the oldest event that has arrived is begun. -/
theorem evtStep_of_event {s : State} {e : Event} {es : List Event} (hpc : s.br.evtPc = .idle) (hq : s.br.evtQ = e :: es) :
    evtStep s = startEvent e { s with br := { s.br with evtQ := es } } := by
  simp only [evtStep, hpc, hq]

theorem receivePayload_of_lt {s : State} (h : s.br.q.length < s.cfg.queueCap) (p : List Byte) :
    receivePayload p s = s.enqueue p := if_pos h

theorem receivePayload_of_full {s : State} (h : s.br.q.length = s.cfg.queueCap) (p : List Byte) :
    receivePayload p s = latchOverflow s := if_neg h.not_lt

/-- Settles O33: the capacity test passes, and the entry is `pad128` of the payload. -/
theorem payloadIsEnqueuedAsOneBlock : Obligations.PayloadIsEnqueuedAsOneBlock := by
  intro s p es hpc hq hcap
  refine ⟨congrArg Host.Outcome.next ?_, length_pad128 p⟩
  rw [evtStep_of_event hpc hq, startEvent, receivePayload_of_lt]
  · rfl
  · exact hcap

/-- Settles O34: the capacity test fails. -/
theorem fullQueueLatchesTheOverflowTrigger : Obligations.FullQueueLatchesTheOverflowTrigger := by
  intro s p es hpc hq hcap
  refine congrArg Host.Outcome.next ?_
  rw [evtStep_of_event hpc hq, startEvent, receivePayload_of_full]
  · rfl
  · exact hcap

/-- Settles O35: the first step is the event's, the second the handler's last. -/
theorem connectWritesConnThenLink : Obligations.ConnectWritesConnThenLink := by
  intro s h es hpc hq
  have hfirst : evtStep s = { s with br := { s.br with evtQ := es, conn := some h, evtPc := .setLink } } :=
    evtStep_of_event hpc hq
  refine ⟨?_, ?_, ?_⟩ <;> simp only [evtSteps, hfirst]
  simp only [evtStep, hpc]

/-- R261: the trigger, where it is latched and where it is left, as one update. -/
theorem latchDisconnect_eq (s : State) : latchDisconnect s = { s with
    br := { s.br with discTrig := s.br.discTrig || decide (s.br.link = .connected) }
    trace := s.trace ++ if s.br.link = .connected then [.log .bridge .peerDisconnect] else [] } := by
  by_cases h : s.br.link = .connected
  · simp [latchDisconnect, h, State.raise, State.emit, State.emits]
  · simp [latchDisconnect, h]

/-- Settles O36: the first step latches, the second clears `link`, the third `conn`; only the first writes the trigger. -/
theorem disconnectLatchesBeforeItClears : Obligations.DisconnectLatchesBeforeItClears := by
  intro s es hpc hq
  have hfirst : evtStep s = { s with
      br := { s.br with
        evtQ := es, evtPc := .clearLink, discTrig := s.br.discTrig || decide (s.br.link = .connected) }
      trace := s.trace ++ if s.br.link = .connected then [.log .bridge .peerDisconnect] else [] } := by
    rw [evtStep_of_event hpc hq, startEvent, latchDisconnect_eq]
  refine ⟨?_, ?_, ?_, ?_, ?_, ?_, ?_⟩ <;> simp only [evtSteps, hfirst]
  all_goals simp only [evtStep, hpc]

/-! ## The outbound path -/

theorem recognized_iff (b : Block) : recognized b = true ↔ b.getD 0 0 = 0xA5 ∧ b.getD 1 0 = 0x60 := by
  simp [recognized, sync, idTelemetry]

/-- R238: the check of a recognised block, where it logs E5 and where it logs nothing, as one update. -/
theorem checkTelemetry_of_recognized {s : State} (hr : recognized s.br.bRx = true) : checkTelemetry s = { s with
    trace := s.trace ++ if s.br.bRx.getD 4 0 = sum8 [0x60, s.br.bRx.getD 2 0, s.br.bRx.getD 3 0] then []
      else [.log .bridge (.telemetryChecksumMismatch (s.br.bRx.getD 4 0))] } := by
  obtain ⟨-, hid⟩ := (recognized_iff _).mp hr
  rw [checkTelemetry, telemetryChecksumOk, hid]
  by_cases hcks : s.br.bRx.getD 4 0 = sum8 [0x60, s.br.bRx.getD 2 0, s.br.bRx.getD 3 0]
  · rw [if_pos (decide_eq_true hcks), if_pos hcks, List.append_nil]
  · rw [if_neg (by simpa using hcks), if_neg hcks]
    rfl

/-- R208: in P_POST the main loop takes the outbound path. -/
theorem bmlStep_of_post {s : State} (hp : s.br.pSt = .post) (hpc : s.br.bmlPc = .idle) :
    bmlStep s = .next (postStep s) := by
  simp only [bmlStep, hpc, hp]

/-- R236, R239: a recognised block of a completed exchange is checked and goes to the gate. -/
theorem postStep_of_recognized {s : State} (hok : s.br.xferOk = true) (hr : recognized s.br.bRx = true) :
    postStep s = (checkTelemetry s).goto
      (.gate .link (s.br.bRx.getD 2 0) (s.br.bRx.getD 3 0) (auxBytes s.cfg.auxFields s.env.pins.auxIn)) :=
  (if_pos hok).trans (if_pos hr)

/-- R208, R237: otherwise the cycle ends. -/
theorem postStep_of_not_recognized {s : State} (h : s.br.xferOk = true → ¬ recognized s.br.bRx = true) :
    postStep s = finishCycle s := by
  by_cases hok : s.br.xferOk = true
  · exact (if_pos hok).trans (if_neg (h hok))
  · exact if_neg hok

/-- Settles O43: the test of `xfer_ok` and of the block's first two bytes decides between the gate and the cycle's end. -/
theorem outboundPathLooksForTelemetry : Obligations.OutboundPathLooksForTelemetry := by
  intro s hp hpc
  have hstep : runAgent .bml s = .next (postStep s) := bmlStep_of_post hp hpc
  rw [hstep]
  refine ⟨fun hnot => ?_, fun hok hsync hid => ?_⟩
  · rw [postStep_of_not_recognized]
    · simp only [finishCycle, hpc]
    · intro hok hr
      obtain ⟨hsync, hid⟩ := (recognized_iff _).mp hr
      obtain hfailed | hne | hne := hnot
      · exact absurd (hok.symm.trans hfailed) nofun
      · exact hne hsync
      · exact hne hid
  · have hr := (recognized_iff _).mpr ⟨hsync, hid⟩
    rw [postStep_of_recognized hok hr, checkTelemetry_of_recognized hr]
    rfl

/-! ## The gate -/

theorem intervalOk_iff (s : State) :
    intervalOk s = true ↔ ∀ t, s.br.lastSend = some t → s.cfg.minSendInterval ≤ s.env.now - t := by
  cases hlast : s.br.lastSend <;> simp [intervalOk, hlast]

theorem backoffOver_iff (s : State) :
    backoffOver s = true ↔ ∀ t, s.br.backoffDeadline = some t → t ≤ s.env.now := by
  cases hdeadline : s.br.backoffDeadline <;> simp [backoffOver, hdeadline]

/-- R241: `may_send` is all three reads. -/
theorem maySend_iff (s : State) : maySend s = true ↔ ∀ f, gateReads f s = true := by
  refine ⟨fun h f => ?_, fun h => ?_⟩
  · obtain ⟨hlink, hback⟩ := Bool.and_eq_true_iff.mp h
    obtain ⟨hlink, hint⟩ := Bool.and_eq_true_iff.mp hlink
    cases f with
    | link => exact hlink
    | interval => exact hint
    | backoff => exact hback
  · exact Bool.and_eq_true_iff.mpr ⟨Bool.and_eq_true_iff.mpr ⟨h .link, h .interval⟩, h .backoff⟩

/-- The gate does not read the main loop's control. -/
theorem gateReads_goto (f : GateField) (pc : BmlPc) (s : State) : gateReads f (s.goto pc) = gateReads f s := by
  cases f <;> rfl

/-- R241, R245: a read of the gate, its test spelled as `P`. -/
theorem bmlStep_of_gate {s : State} {f : GateField} {d1 d2 : Byte} {aux : List Byte} {P : Prop} [Decidable P]
    (hpc : s.br.bmlPc = .gate f d1 d2 aux) (hP : gateReads f s = true ↔ P) :
    bmlStep s = .next (if P then s.goto (gateNext d1 d2 aux f) else finishCycle s) := by
  simp only [bmlStep, hpc, gateStep, hP]

/-- Settles O44: each read is one step of the gate. -/
theorem gateDecidesWhetherTelemetryIsSent : Obligations.GateDecidesWhetherTelemetryIsSent := by
  intro s d1 d2 aux discarded goOn
  exact ⟨fun hpc => bmlStep_of_gate hpc decide_eq_true_iff, fun hpc => bmlStep_of_gate hpc (intervalOk_iff s),
    fun hpc => bmlStep_of_gate hpc (backoffOver_iff s)⟩

/-- Uninterrupted, the gate's three reads lead a notification that may be sent to the send (R241, R242). -/
theorem bmlSteps_of_gate {s : State} (hmay : maySend s = true) (n : Nat) (d1 d2 : Byte) (aux : List Byte) :
    bmlSteps (n + 3) (s.goto (.gate .link d1 d2 aux)) = bmlSteps n (s.goto (.send d1 d2 aux)) := by
  have hread (f : GateField) :
      bmlStep (s.goto (.gate f d1 d2 aux)) = .next ((s.goto (.gate f d1 d2 aux)).goto (gateNext d1 d2 aux f)) :=
    (bmlStep_of_gate rfl Iff.rfl).trans
      (congrArg Host.Outcome.next (if_pos ((gateReads_goto ..).trans ((maySend_iff s).mp hmay f))))
  calc bmlSteps (n + 3) (s.goto (.gate .link d1 d2 aux))
    _ = bmlSteps (n + 2) (s.goto (.gate .interval d1 d2 aux)) := bmlSteps_succ (hread .link)
    _ = bmlSteps (n + 1) (s.goto (.gate .backoff d1 d2 aux)) := bmlSteps_succ (hread .interval)
    _ = bmlSteps n (s.goto (.send d1 d2 aux)) := bmlSteps_succ (hread .backoff)

/-! ## The send -/

/-- Settles O31: the step takes the stimulus, latches its draws and is the main loop's send. -/
theorem stepSendsTheGatedNotification : Obligations.StepSendsTheGatedNotification := by
  intro s p xs d1 d2 aux hwf hin hpc
  rw [step_eq s hwf, nextStim_supplied hin, takeStim_supplied hin]
  exact bmlStep_of_send (by rw [latch_br]; exact hpc)

theorem bmlStep_of_finish {s : State} (hpc : s.br.bmlPc = .finish) : bmlStep s = .next (finishCycle s) := by
  simp only [bmlStep, hpc]

/-- Uninterrupted, an accepted send puts the frame out, and the cycle ends (R242, R244, R208). -/
theorem bmlSteps_of_send {s : State} {h : Handle} {d1 d2 : Byte} {aux : List Byte} (hpc : s.br.bmlPc = .send d1 d2 aux)
    (hlen : aux.length ≤ 123) (hconn : s.br.conn = some h) (hok : s.env.pins.sendOk = true) :
    let note := frameBytes idTelemetry (d1 :: d2 :: aux)
    bmlSteps 2 s = .next (finishCycle { s with
      br := { s.br with lastSend := some s.env.now, backoffDeadline := none }
      trace := s.trace ++ [.radioSend h note true, .notify note] }) := by
  intro note
  have hsend : bmlStep s = .next ((radioSend note s).goto .finish) := by
    rw [bmlStep_of_send hpc, exec_telemNotify_of_le hlen, andThen_next]
  rw [bmlSteps_succ hsend, bmlSteps_succ (bmlStep_of_finish rfl), radioSend_of_accepted hconn hok]
  rfl

/-- The first four bytes of a recognised block are the head of the notification's frame. -/
theorem take_four_of_recognized {b : Block} (hr : recognized b = true) (hlen : 4 ≤ b.length) :
    b.take 4 = [sync, idTelemetry, b.getD 2 0, b.getD 3 0] := by
  obtain ⟨hsync, hid⟩ := (recognized_iff b).mp hr
  match b, hlen with
  | b0 :: b1 :: b2 :: b3 :: rest, _ =>
    obtain rfl : b0 = 0xA5 := hsync
    obtain rfl : b1 = 0x60 := hid
    rfl

/-- R239: a recognised block's first four bytes, auxiliary bytes and a new checksum are the notification's frame. -/
theorem frameBytes_of_recognized {b : Block} (hr : recognized b = true) (hlen : 4 ≤ b.length) (aux : List Byte) :
    b.take 4 ++ aux ++ [sum8 ((b.take 4).drop 1 ++ aux)] = frameBytes idTelemetry (b.getD 2 0 :: b.getD 3 0 :: aux) := by
  rw [take_four_of_recognized hr hlen]
  rfl

/-- Uninterrupted, a recognised block that passes the gate is at the send after four steps, and nothing has been put out to
the radio (R236 to R241). -/
theorem bmlSteps_of_recognized {s : State} (hp : s.br.pSt = .post) (hpc : s.br.bmlPc = .idle) (hx : s.br.xferOk = true)
    (hr : recognized s.br.bRx = true) (hmay : maySend s = true) :
    ∃ l, (∀ o ∈ l, o.isSend = false) ∧ ∀ n, bmlSteps (n + 4) s = bmlSteps n (State.goto { s with trace := s.trace ++ l }
      (.send (s.br.bRx.getD 2 0) (s.br.bRx.getD 3 0) (auxBytes s.cfg.auxFields s.env.pins.auxIn))) := by
  obtain ⟨l, -, hquiet, hcheck⟩ := checkTelemetry_shape s
  have hmay' : maySend { s with trace := s.trace ++ l } = true := hmay
  refine ⟨l, hquiet, fun n => ?_⟩
  rw [bmlSteps_succ (bmlStep_of_post hp hpc), postStep_of_recognized hx hr, hcheck, bmlSteps_of_gate hmay']

/-- Settles O46: four steps to the send, the accepted send and the cycle's end. -/
theorem notificationEchoesTheTelemetry : Obligations.NotificationEchoesTheTelemetry := by
  intro s h hp hpc hx hlen hsync hid haux hmay hconn hok aux note
  have hr := (recognized_iff _).mpr ⟨hsync, hid⟩
  have hauxLen : aux.length = s.cfg.auxLen := length_auxBytes _ _
  have hnote : note = frameBytes idTelemetry (s.br.bRx.getD 2 0 :: s.br.bRx.getD 3 0 :: aux) :=
    frameBytes_of_recognized hr (Nat.le_of_succ_le hlen) aux
  obtain ⟨l, hquiet, hfour⟩ := bmlSteps_of_recognized hp hpc hx hr hmay
  rw [hnote]
  refine ⟨?_, _, l, (hfour 2).trans (bmlSteps_of_send rfl (hauxLen.trans_le haux) hconn hok), rfl, hquiet, rfl, rfl, rfl, rfl⟩
  rw [length_frameBytes, List.length_cons, List.length_cons, hauxLen]

/-! ## The backoff window -/

/-- From `s` to `t` nothing is sent and no send begins: the two timestamps of sending stay, `BML` is at a send only if it
was there, and nothing is put out to the radio. -/
structure SendsNothing (s t : State) : Prop where
  backoffDeadline : t.br.backoffDeadline = s.br.backoffDeadline
  lastSend : t.br.lastSend = s.br.lastSend
  begins : ∀ d1 d2 aux, t.br.bmlPc = .send d1 d2 aux → s.br.bmlPc = .send d1 d2 aux
  trace : ∃ l, t.trace = s.trace ++ l ∧ ∀ o ∈ l, o.isSend = false

/-- What leaves the bridge and the trace as they are sends nothing. -/
theorem SendsNothing.of_eq {s t : State} (hbr : t.br = s.br) (htrace : t.trace = s.trace) : SendsNothing s t :=
  ⟨by rw [hbr], by rw [hbr], fun _ _ _ => by rw [hbr]; exact id, [], by rw [htrace, List.append_nil], nofun⟩

theorem SendsNothing.trans {s t u : State} (h : SendsNothing s t) (h' : SendsNothing t u) : SendsNothing s u where
  backoffDeadline := h'.backoffDeadline.trans h.backoffDeadline
  lastSend := h'.lastSend.trans h.lastSend
  begins d1 d2 aux hpc := h.begins d1 d2 aux (h'.begins d1 d2 aux hpc)
  trace := by
    obtain ⟨l, e, hl⟩ := h.trace
    obtain ⟨l', e', hl'⟩ := h'.trace
    exact ⟨l ++ l', by rw [e', e, List.append_assoc], fun o ho => (List.mem_append.mp ho).elim (hl o) (hl' o)⟩

theorem evtStep_sendsNothing (s : State) : SendsNothing s (evtStep s) := by
  obtain ⟨q, o, d, k, c, es, pc, l, e, -, -, hquiet⟩ := evtStep_frame s
  rw [e]
  exact ⟨rfl, rfl, fun _ _ _ => id, l, rfl, hquiet⟩

theorem failExchange_sendsNothing (s : State) : SendsNothing s (failExchange s) :=
  ⟨rfl, rfl, fun _ _ _ => id, _, failExchange_trace s, by simp [Output.isSend]⟩

theorem exchangeStep_sendsNothing {s t : State} (h : exchangeStep s = .next t) : SendsNothing s t := by
  obtain ⟨-, rfl⟩ | ⟨-, -, -, rfl⟩ | ⟨-, -, -, rfl⟩ := exchangeStep_cases h
  · exact .of_eq rfl rfl
  · exact ⟨rfl, rfl, fun _ _ _ => id, [], (List.append_nil _).symm, nofun⟩
  · exact (failExchange_sendsNothing s).trans
      ⟨rfl, rfl, fun _ _ _ => id, _, failInitiated_trace s, by simp [Output.isSend]⟩

theorem composeStep_sendsNothing (s : State) : SendsNothing s (composeStep s) := by
  obtain e | ⟨b, -, -, -, e⟩ := composeStep_shape s <;> rw [e] <;> exact .of_eq rfl rfl

/-- Frames that a decoder can return are no notifications. -/
theorem CmlFrame.sendsNothing {f : Option Instr} {s t : State} (h : CmlFrame f s t)
    (hd : ∀ i ∈ s.ct.inflight, i.decodable = true) : SendsNothing s t := by
  have hbr := h.brDecodable hd
  exact ⟨by rw [hbr], by rw [hbr], fun _ _ _ => by rw [hbr]; exact id, h.quiet hd⟩

/-- While a backoff window is open `BML` sends only if it was at the send already: the gate's last read does not pass
(R241, R246). -/
theorem bmlStep_sendsNothing {s t : State} (h : bmlStep s = .next t) (hopen : ¬ backoffOver s = true)
    (hnot : ∀ d1 d2 aux, s.br.bmlPc ≠ .send d1 d2 aux) : SendsNothing s t := by
  have keeps {u : State} (hb : u.br.backoffDeadline = s.br.backoffDeadline) (hl : u.br.lastSend = s.br.lastSend)
      (hpc : ∀ d1 d2 aux, u.br.bmlPc ≠ .send d1 d2 aux) (htrace : u.trace = s.trace) : SendsNothing s u :=
    ⟨hb, hl, fun _ _ _ e => (hpc _ _ _ e).elim, [], by rw [htrace, List.append_nil], nofun⟩
  obtain rfl | ⟨-, -, rfl⟩ | ⟨-, -, rfl⟩ | ⟨-, -, rfl⟩ | ⟨-, -, l, d1, d2, hquiet, rfl⟩ | ⟨-, -, l, hquiet, rfl⟩ | ⟨-, rfl⟩ |
    ⟨d, -, rfl⟩ | ⟨d, o, -, -, -, -, rfl⟩ | ⟨d, o, -, -, rfl⟩ | ⟨-, rfl⟩ | ⟨d1, d2, aux, a, b, l, hpc, -⟩ | ⟨-, rfl⟩ |
    ⟨f, d1, d2, aux, -, rfl | ⟨hg, rfl⟩⟩ := bmlStep_cases h
  · exact .of_eq rfl rfl
  · exact keeps rfl rfl nofun rfl
  · exact keeps rfl rfl hnot rfl
  · exact failExchange_sendsNothing s
  · exact ⟨rfl, rfl, nofun, l, rfl, hquiet⟩
  · exact ⟨rfl, rfl, nofun, l, rfl, hquiet⟩
  · exact keeps rfl rfl nofun rfl
  · exact keeps rfl rfl nofun rfl
  · exact keeps rfl rfl nofun rfl
  · exact keeps rfl rfl nofun rfl
  · exact keeps rfl rfl nofun rfl
  · exact absurd hpc (hnot d1 d2 aux)
  · exact keeps rfl rfl nofun rfl
  · exact keeps rfl rfl nofun rfl
  · cases f with
    | link => exact keeps rfl rfl nofun rfl
    | interval => exact keeps rfl rfl nofun rfl
    | backoff => exact absurd hg hopen

/-- A sound state inside a backoff window is not at a send. -/
theorem State.Inv.not_at_send {s : State} (h : s.Inv) (hopen : ¬ backoffOver s = true) (d1 d2 : Byte) (aux : List Byte) :
    s.br.bmlPc ≠ .send d1 d2 aux :=
  fun hpc => hopen ((backoffOver_iff s).mpr (h.sendUngated d1 d2 aux hpc))

/-- Inside a backoff window no agent's step from a sound state sends. -/
theorem runAgent_sendsNothing {a : Agent} {s t : State} (h : runAgent a s = .next t) (hinv : s.Inv)
    (hopen : ¬ backoffOver s = true) : SendsNothing s t := by
  cases a with
  | evt => obtain rfl := Host.Outcome.next.inj h; exact evtStep_sendsNothing s
  | bml => exact bmlStep_sendsNothing h hopen (hinv.not_at_send hopen)
  | exchange => exact exchangeStep_sendsNothing h
  | compose => obtain rfl := Host.Outcome.next.inj h; exact composeStep_sendsNothing s
  | cml => exact (cmlStep_frame h).1.sendsNothing hinv.inflightDecodable
  | uart => exact (uartStep_frame h).1.sendsNothing hinv.inflightDecodable

theorem encCycle_sendsNothing (e : EncSel) (i : EncIn) (s : State) : SendsNothing s (encCycle e i s) := by
  cases e <;> exact ⟨rfl, rfl, fun _ _ _ => id, _, rfl, encEvents_quiet _ _ i⟩

theorem decCycle_sendsNothing (d : DecSel) (i : DecIn) (s : State) : SendsNothing s (decCycle d i s) :=
  ⟨rfl, rfl, fun _ _ _ => id, _, rfl, decEvents_quiet _ d _ i⟩

/-- A stimulus but a reset of the bridge that ends inside the backoff window sends nothing: an agent acts at the time at
which its step ends. -/
theorem perform_sendsNothing {x : Stim} {s t : State} {tb : Nat} (h : perform x s = .next t) (hx : x ≠ .resetBridge)
    (hinv : s.Inv) (hd : s.br.backoffDeadline = some tb) (hnow : t.env.now < tb) : SendsNothing s t := by
  cases x with
  | run a p =>
    have hopen : ¬ backoffOver (latch p s) = true := fun hover => by
      have hle := (backoffOver_iff _).mp hover tb (by rw [latch_br, hd])
      rw [← (runAgent_appendsOnly h).env] at hle
      omega
    exact (SendsNothing.of_eq (latch_br p s) (latch_trace p s)).trans (runAgent_sendsNothing h (hinv.latch p) hopen)
  | arrive e => obtain rfl := Host.Outcome.next.inj h; exact ⟨rfl, rfl, fun _ _ _ => id, [], (List.append_nil _).symm, nofun⟩
  | resetBridge => exact absurd rfl hx
  | resetController => obtain rfl := Host.Outcome.next.inj h; exact .of_eq rfl rfl
  | encClk e i => obtain rfl := Host.Outcome.next.inj h; exact encCycle_sendsNothing e i s
  | decClk d i => obtain rfl := Host.Outcome.next.inj h; exact decCycle_sendsNothing d i s

/-- Settles O59: the step sends nothing and begins no send, and a sound state inside the window was not at one. -/
theorem noSendDuringBackoff : Obligations.NoSendDuringBackoff := by
  intro s t tb hinv h hr hd hnow
  have hsends : SendsNothing s t := (SendsNothing.of_eq (takeStim_br s) (takeStim_trace s)).trans
    (perform_sendsNothing (step_next h).2 hr hinv.takeStim (by rw [takeStim_br, hd]) hnow)
  have hopen : ¬ backoffOver s = true := fun hover => by
    have hle := (backoffOver_iff s).mp hover tb hd
    have hforward := (step_goesForward h).now
    omega
  exact ⟨hsends.backoffDeadline.trans hd, hsends.lastSend,
    fun d1 d2 aux hpc => hinv.not_at_send hopen d1 d2 aux (hsends.begins d1 d2 aux hpc), hsends.trace⟩

end Sys2Proof.Machine
end

section
/-! PROOFS. The fail-safe statements (45_fail_safe.md): the brake block's bytes and what it decodes to (R264, R270), and the
block that a latched trigger gives (R268, R269). -/

namespace Sys2Proof

/-! ## The brake block -/

theorem brakeBlock_eq_append (c : Config) :
    brakeBlock c = encode c .liftBrake ++ (encode c .tiltBrake ++ zeros 122) := by
  have hlen : (encode c .liftBrake ++ encode c .tiltBrake).length = 6 := rfl
  rw [brakeBlock, pad128_of_le _ (by rw [hlen]; decide), hlen, List.append_assoc]
  rfl

/-- R152: zeros are garbage, skipped one by one. -/
theorem run_zeros (c : Config) (n : Nat) : run c (zeros n) = ⟨List.replicate n (.skipped 0), []⟩ := by
  have hsync : sync ∉ zeros n := fun h => absurd (List.eq_of_mem_replicate h) (by decide)
  have hrun := run_garbage_append c hsync []
  rw [List.append_nil, run_quiet c [] rfl] at hrun
  simpa [zeros] using hrun

/-- R270: the block is read frame by frame, and then its padding. -/
theorem run_brakeBlock {c : Config} (hc : c.idsDistinct = true) :
    run c (brakeBlock c) = ⟨.frame .liftBrake :: .frame .tiltBrake :: List.replicate 122 (.skipped 0), []⟩ := by
  rw [brakeBlock_eq_append, run_encode_append hc rfl, run_encode_append hc rfl, run_zeros]

theorem frames_run_brakeBlock {c : Config} (hc : c.idsDistinct = true) :
    (run c (brakeBlock c)).frames = [.liftBrake, .tiltBrake] := by
  rw [run_brakeBlock hc]
  simp [DecRun.frames, DecStep.frame?]

/-- Settles O24: two frames without payload fit the block, which decodes frame by frame. -/
theorem brakeBlockDecodesToTwoBrakes : Obligations.BrakeBlockDecodesToTwoBrakes := by
  refine fun c => ⟨?_, ?_, run_brakeBlock⟩
  · have hfits : [encode c .liftBrake, encode c .tiltBrake].flatten.length ≤ blockSize :=
      show 6 ≤ 128 by decide
    rw [pack, if_pos hfits, List.flatten_cons, List.flatten_singleton, brakeBlock]
  · rw [brakeBlock_eq_append, encode_of_payload_eq_nil c rfl, encode_of_payload_eq_nil c rfl]
    rfl

end Sys2Proof

namespace Sys2Proof.Machine

/-- R182: with a frame in flight, a step of `CML` dispatches. -/
theorem cmlStep_of_inflight {s : State} (hf : s.ct.inflight ≠ []) : cmlStep s = dispatchNext s := by
  obtain ⟨i, fs, hf⟩ := List.exists_cons_of_ne_nil hf
  simp only [cmlStep, hf]

/-- R212: decoding a block is no step of its own; where it finds a frame, the steps are those that dispatch what it found. -/
theorem cmlSteps_of_decode {s : State} (hc : s.ct.cSt = .decode) (hf : s.ct.inflight = [])
    (hfound : (decodeBlk s).ct.inflight ≠ []) (n : Nat) : cmlSteps (n + 1) s = cmlSteps (n + 1) (decodeBlk s) := by
  rw [cmlSteps, cmlSteps, cmlStep_of_decode hc hf, cmlStep_of_inflight hfound]

/-- R270: decoding the brake block into an empty `dec_blk` puts the two brakes in flight and leaves nothing to flush. -/
theorem decodeBlk_of_brakeBlock {s : State} (hids : s.cfg.idsDistinct = true) (hd : s.ct.decBlk = [])
    (hrx : s.ct.cRx = brakeBlock s.cfg) :
    (decodeBlk s).ct.inflight = [.liftBrake, .tiltBrake] ∧ (decodeBlk s).ct.decBlk = [] ∧ (decodeBlk s).br = s.br := by
  have hfeed : feed s.ct.decBlk s.ct.cRx = brakeBlock s.cfg := by rw [hd, hrx, feed, List.nil_append]
  rw [decodeBlk_eq s, hfeed]
  exact ⟨frames_run_brakeBlock hids, by simp [run_brakeBlock hids], rfl⟩

/-- Settles O32: the two steps execute the two frames that decoding the block puts in flight. -/
theorem receivedBrakeBlockBrakesBothChannels : Obligations.ReceivedBrakeBlockBrakesBothChannels := by
  intro s hids hc hf hd hrx
  obtain ⟨hfound, hpend, hbr⟩ := decodeBlk_of_brakeBlock hids hd hrx
  have hne : (decodeBlk s).ct.inflight ≠ [] := hfound ▸ List.cons_ne_nil _ _
  have hsteps := framesInFlightExecuteInOrder (decodeBlk s) hne
  rw [hfound] at hsteps
  exact ⟨_, (cmlSteps_of_decode hc hf hne 1).trans hsteps, ⟨rfl, rfl⟩, rfl, hpend, hbr⟩

/-! ## A latched trigger -/

theorem evtSteps_of_no_event {s : State} (hpc : s.br.evtPc = .idle) (hq : s.br.evtQ = []) (n : Nat) :
    evtSteps n s = s := by
  induction n with
  | zero => rfl
  | succ n ih => rw [evtSteps, evtStep_of_no_event hpc hq, ih]

/-- R232: an overflow takes the first of the three steps, and the others find nothing to do. -/
theorem evtSteps_of_overflow {s : State} {p : List Byte} (hpc : s.br.evtPc = .idle) (hq : s.br.evtQ = [.wirelessRx p])
    (hfull : s.br.q.length = s.cfg.queueCap) : evtSteps 3 s = { s with
      br := { s.br with evtQ := [], ovfTrig := true }
      trace := s.trace ++ [.log .bridge .queueFull] } := by
  have hfirst := Host.Outcome.next.inj (fullQueueLatchesTheOverflowTrigger s p [] hpc hq hfull)
  rw [evtSteps, hfirst]
  exact evtSteps_of_no_event (by exact hpc) rfl 2

/-- R263, R269: an uninterrupted preparation that finds a trigger latched prepares the brake block, whatever is queued. -/
theorem bmlSteps_of_triggered {s : State} (hp : s.br.pSt = .wait) (hpc : s.br.bmlPc = .idle)
    (hstart : s.br.q ≠ [] ∨ s.cfg.queueWaitTimeout ≤ s.env.now - s.br.waitT0)
    (htrig : s.br.discTrig = true ∨ s.br.ovfTrig = true) :
    bmlSteps 5 s = .next { s with br := { s.br with
      q := s.br.q.tail, bTx := brakeBlock s.cfg, discTrig := false, ovfTrig := false, pSt := .prepared } } := by
  rw [(preparationTakesTheEntryOrBrakes s hp hpc).1 hstart, if_pos htrig]

/-- Settles O38: either event latches its trigger and leaves the queue and the main loop to `bmlSteps_of_triggered`. -/
theorem latchedTriggerMakesTheNextBlockABrakeBlock : Obligations.LatchedTriggerMakesTheNextBlockABrakeBlock := by
  rintro s e hevt hq hp hpc (⟨p, rfl, hfull, hcap⟩ | ⟨rfl, hlink, hstart⟩)
  · have hne : s.br.q ≠ [] := List.ne_nil_of_length_pos (hfull ▸ hcap)
    rw [evtSteps_of_overflow hevt hq hfull]
    exact ⟨_, bmlSteps_of_triggered hp hpc (.inl hne) (.inr rfl), rfl, rfl, rfl, rfl, rfl⟩
  · obtain ⟨-, -, -, -, -, -, hthree⟩ := disconnectLatchesBeforeItClears s [] hevt hq
    have htrig : (s.br.discTrig || decide (s.br.link = .connected)) = true := by simp [hlink]
    rw [hthree]
    exact ⟨_, bmlSteps_of_triggered hp hpc hstart (.inl htrig), rfl, rfl, rfl, rfl, rfl⟩

end Sys2Proof.Machine
end

section
/-! PROOFS. The exceptions' statements (60_exceptions.md): no error stops the machine (R280), and what an agent does not own
it does not write (R306). -/

namespace Sys2Proof.Machine

/-! ## No error stops the machine

Only two operations can fault: a write of `b_tx` in flight (R80), and an exchange while ready is low (R206). -/

theorem dispatchNext_total (s : State) : ∃ t, dispatchNext s = .next t := by
  cases hf : s.ct.inflight with
  | nil => exact ⟨_, dispatchNext_of_nil hf⟩
  | cons i fs =>
    obtain ⟨t, ht⟩ := exec_total i (s.withInflight fs)
    exact ⟨settle t, by rw [dispatchNext_of_cons hf, ht, andThen_next]⟩

theorem cmlStep_total (s : State) : ∃ t, cmlStep s = .next t := by
  by_cases hf : s.ct.inflight = []
  · cases hc : s.ct.cSt with
    | poll => exact ⟨s, cmlStep_of_poll hc hf⟩
    | decode => exact cmlStep_of_decode hc hf ▸ dispatchNext_total _
  · exact cmlStep_of_inflight hf ▸ dispatchNext_total s

theorem uartStep_total (s : State) : ∃ t, uartStep s = .next t := by
  unfold uartStep
  split_ifs
  · exact dispatchNext_total _
  · exact ⟨s, rfl⟩

/-- R206: the producer is in P_READY only while ready is high, so an enabled exchange does not fault. -/
theorem State.Inv.exchangeStep_total {s : State} (h : s.Inv) : ∃ t, Machine.exchangeStep s = .next t := by
  by_cases he : exchangeEnabled s = true
  · exact ⟨_, exchangeStep_of_enabled he (h.readyIff.mpr (pSt_of_exchangeEnabled he))⟩
  · exact ⟨s, exchangeStep_of_not_enabled he⟩

/-- R80: the main loop writes `b_tx` at the load and at the override, and both are in P_WAIT. -/
theorem State.Inv.bmlStep_total {s : State} (h : s.Inv) : ∃ t, Machine.bmlStep s = .next t := by
  cases hpc : s.br.bmlPc with
  | idle =>
    cases hp : s.br.pSt with
    | wait =>
      by_cases he : prepareEnabled s = true
      · exact ⟨_, bmlStep_of_wait hp hpc he⟩
      · exact ⟨_, bmlStep_of_waiting hp hpc he⟩
    | prepared => exact ⟨_, bmlStep_of_prepared hp hpc⟩
    | ready => exact ⟨_, bmlStep_of_ready hp hpc⟩
    | post => exact ⟨_, bmlStep_of_post hp hpc⟩
  | takeDisc => exact ⟨_, bmlStep_of_takeDisc hpc⟩
  | takeOvf d => exact ⟨_, bmlStep_of_takeOvf hpc⟩
  | override d o => exact ⟨_, bmlStep_of_override_wait (h.fits hpc) hpc⟩
  | prepDone => exact ⟨_, bmlStep_of_prepDone hpc⟩
  | gate f d1 d2 aux => exact ⟨_, bmlStep_of_gate hpc Iff.rfl⟩
  | send d1 d2 aux =>
    obtain ⟨t, ht⟩ := exec_total (.telemNotify d1 d2 aux) s
    exact ⟨t.goto .finish, by rw [bmlStep_of_send hpc, ht, andThen_next]⟩
  | finish => exact ⟨_, bmlStep_of_finish hpc⟩

theorem State.Inv.runAgent_total {s : State} (h : s.Inv) (a : Agent) : ∃ t, Machine.runAgent a s = .next t := by
  cases a with
  | evt => exact ⟨_, rfl⟩
  | bml => exact h.bmlStep_total
  | exchange => exact h.exchangeStep_total
  | compose => exact ⟨_, rfl⟩
  | cml => exact cmlStep_total s
  | uart => exact uartStep_total s

theorem State.Inv.perform_total {s : State} (h : s.Inv) (x : Stim) : ∃ t, Machine.perform x s = .next t := by
  cases x with
  | run a p => exact (h.latch p).runAgent_total a
  | _ => exact ⟨_, rfl⟩

/-- Settles O52: an admissible configuration is not refused, and a sound state's agents do not fault. -/
theorem noStepStops : Obligations.NoStepStops := fun s hwf h =>
  step_eq s hwf ▸ h.takeStim.perform_total (nextStim s)

/-! ## What an agent does not own it does not write -/

/-- R306: from `s` to `t`, in a step of agent `a`, what `a` does not own stays. The triggers have two owners: only `EVT` sets
them, and besides it only `BML` changes them, by clearing. -/
structure WritesOnlyItsOwn (a : Agent) (s t : State) : Prop where
  events : a ≠ .evt → t.br.link = s.br.link ∧ t.br.conn = s.br.conn ∧ t.br.evtQ = s.br.evtQ ∧
    (t.br.discTrig = true → s.br.discTrig = true) ∧ (t.br.ovfTrig = true → s.br.ovfTrig = true)
  cycle : a ≠ .bml → t.br.lastSend = s.br.lastSend ∧ t.br.backoffDeadline = s.br.backoffDeadline ∧
    t.br.bTx = s.br.bTx ∧ t.br.waitT0 = s.br.waitT0 ∧ t.br.xferT0 = s.br.xferT0
  transfer : a ≠ .bml → a ≠ .exchange → t.br.pSt = s.br.pSt ∧ t.br.ready = s.br.ready ∧ t.br.xferOk = s.br.xferOk ∧
    t.br.bRx = s.br.bRx ∧ t.ct.cRx = s.ct.cRx
  shared : a ≠ .evt → a ≠ .bml → t.br.q = s.br.q ∧ t.br.discTrig = s.br.discTrig ∧ t.br.ovfTrig = s.br.ovfTrig
  cTx : a ≠ .compose → t.ct.cTx = s.ct.cTx
  cSt : a ≠ .cml → a ≠ .exchange → t.ct.cSt = s.ct.cSt
  serial : t.br.enc = s.br.enc ∧ t.ct.enc = s.ct.enc ∧ t.ct.serBlk = s.ct.serBlk ∧ t.ct.serUart = s.ct.serUart
  dispatch : a ≠ .cml → a ≠ .uart → t.ct.decBlk = s.ct.decBlk ∧ t.ct.decUart = s.ct.decUart ∧
    t.ct.actLift = s.ct.actLift ∧ t.ct.actTilt = s.ct.actTilt

/-- `EVT` writes the bridge alone. -/
theorem evtStep_writesOnlyItsOwn (s : State) : WritesOnlyItsOwn .evt s (evtStep s) := by
  obtain ⟨q, o, d, k, c, es, pc, l, e, -⟩ := evtStep_frame s
  rw [e]
  exact {
    events := absurd rfl
    cycle := fun _ => ⟨rfl, rfl, rfl, rfl, rfl⟩
    transfer := fun _ _ => ⟨rfl, rfl, rfl, rfl, rfl⟩
    shared := absurd rfl
    cTx := fun _ => rfl
    cSt := fun _ _ => rfl
    serial := ⟨rfl, rfl, rfl, rfl⟩
    dispatch := fun _ _ => ⟨rfl, rfl, rfl, rfl⟩ }

/-- `BML` leaves the event context's state and `enc_b`, and never sets a trigger. -/
theorem bmlStep_br {s t : State} (h : bmlStep s = .next t) :
    (t.br.link = s.br.link ∧ t.br.conn = s.br.conn ∧ t.br.evtQ = s.br.evtQ ∧
      (t.br.discTrig = true → s.br.discTrig = true) ∧ (t.br.ovfTrig = true → s.br.ovfTrig = true)) ∧
    t.br.enc = s.br.enc := by
  obtain rfl | ⟨-, -, rfl⟩ | ⟨-, -, rfl⟩ | ⟨-, -, rfl⟩ | ⟨-, -, l, d1, d2, -, rfl⟩ | ⟨-, -, l, -, rfl⟩ | ⟨-, rfl⟩ |
    ⟨d, -, rfl⟩ | ⟨d, o, -, -, -, -, rfl⟩ | ⟨d, o, -, -, rfl⟩ | ⟨-, rfl⟩ | ⟨d1, d2, aux, a, b, l, -, rfl⟩ | ⟨-, rfl⟩ |
    ⟨f, d1, d2, aux, -, rfl | ⟨-, rfl⟩⟩ := bmlStep_cases h
  -- the rules that leave both triggers
  any_goals exact ⟨⟨rfl, rfl, rfl, id, id⟩, rfl⟩
  · exact ⟨⟨rfl, rfl, rfl, nofun, id⟩, rfl⟩
  · exact ⟨⟨rfl, rfl, rfl, id, nofun⟩, rfl⟩

/-- Of the controller `BML` writes only what a failed exchange writes: `c_rx` and `composed` (R207). -/
theorem bmlStep_ct {s t : State} (h : bmlStep s = .next t) :
    ∃ r c, t.ct = { s.ct with cRx := r, composed := c } := by
  obtain rfl | ⟨-, -, rfl⟩ | ⟨-, -, rfl⟩ | ⟨-, -, rfl⟩ | ⟨-, -, l, d1, d2, -, rfl⟩ | ⟨-, -, l, -, rfl⟩ | ⟨-, rfl⟩ |
    ⟨d, -, rfl⟩ | ⟨d, o, -, -, -, -, rfl⟩ | ⟨d, o, -, -, rfl⟩ | ⟨-, rfl⟩ | ⟨d1, d2, aux, a, b, l, -, rfl⟩ | ⟨-, rfl⟩ |
    ⟨f, d1, d2, aux, -, rfl | ⟨-, rfl⟩⟩ := bmlStep_cases h
  all_goals exact ⟨_, _, rfl⟩

theorem bmlStep_writesOnlyItsOwn {s t : State} (h : bmlStep s = .next t) : WritesOnlyItsOwn .bml s t := by
  obtain ⟨hevents, henc⟩ := bmlStep_br h
  obtain ⟨r, c, hct⟩ := bmlStep_ct h
  exact {
    events := fun _ => hevents
    cycle := absurd rfl
    transfer := absurd rfl
    shared := fun _ => absurd rfl
    cTx := fun _ => by rw [hct]
    cSt := fun _ _ => by rw [hct]
    serial := ⟨henc, by rw [hct], by rw [hct], by rw [hct]⟩
    dispatch := fun _ _ => by rw [hct]; exact ⟨rfl, rfl, rfl, rfl⟩ }

/-- Completed or failed, an exchange writes the producer's cycle, the receive buffers, `c_st` and `composed`. -/
theorem exchangeStep_writesOnlyItsOwn {s t : State} (h : exchangeStep s = .next t) : WritesOnlyItsOwn .exchange s t := by
  obtain ⟨-, rfl⟩ | ⟨-, -, -, rfl⟩ | ⟨-, -, -, rfl⟩ := exchangeStep_cases h
  all_goals exact {
    events := fun _ => ⟨rfl, rfl, rfl, id, id⟩
    cycle := fun _ => ⟨rfl, rfl, rfl, rfl, rfl⟩
    transfer := fun _ => absurd rfl
    shared := fun _ _ => ⟨rfl, rfl, rfl⟩
    cTx := fun _ => rfl
    cSt := fun _ => absurd rfl
    serial := ⟨rfl, rfl, rfl, rfl⟩
    dispatch := fun _ _ => ⟨rfl, rfl, rfl, rfl⟩ }

/-- A step that leaves the bridge, `c_rx` and the byte-serial registers needs to be judged only by the controller's fields
that some of its own agents write. -/
theorem WritesOnlyItsOwn.of_br_eq {a : Agent} {s t : State} (hbr : t.br = s.br) (hcRx : t.ct.cRx = s.ct.cRx)
    (hserial : t.ct.enc = s.ct.enc ∧ t.ct.serBlk = s.ct.serBlk ∧ t.ct.serUart = s.ct.serUart)
    (hcTx : a ≠ .compose → t.ct.cTx = s.ct.cTx) (hcSt : a ≠ .cml → a ≠ .exchange → t.ct.cSt = s.ct.cSt)
    (hdispatch : a ≠ .cml → a ≠ .uart → t.ct.decBlk = s.ct.decBlk ∧ t.ct.decUart = s.ct.decUart ∧
      t.ct.actLift = s.ct.actLift ∧ t.ct.actTilt = s.ct.actTilt) : WritesOnlyItsOwn a s t where
  events _ := by rw [hbr]; exact ⟨rfl, rfl, rfl, id, id⟩
  cycle _ := by rw [hbr]; exact ⟨rfl, rfl, rfl, rfl, rfl⟩
  transfer _ _ := by rw [hbr]; exact ⟨rfl, rfl, rfl, rfl, hcRx⟩
  shared _ _ := by rw [hbr]; exact ⟨rfl, rfl, rfl⟩
  cTx := hcTx
  cSt := hcSt
  serial := ⟨by rw [hbr], hserial⟩
  dispatch := hdispatch

theorem composeStep_writesOnlyItsOwn (s : State) : WritesOnlyItsOwn .compose s (composeStep s) := by
  obtain e | ⟨b, -, -, -, e⟩ := composeStep_shape s <;> rw [e] <;>
    exact .of_br_eq rfl rfl ⟨rfl, rfl, rfl⟩ (absurd rfl) (fun _ _ => rfl) fun _ _ => ⟨rfl, rfl, rfl, rfl⟩

/-- The frames that a sound state dispatches are no notifications, so they leave the bridge. -/
theorem CmlFrame.writesOnlyItsOwn {f : Option Instr} {a : Agent} {s t : State} (h : CmlFrame f s t) (hinv : s.Inv)
    (ha : a = .cml ∨ a = .uart) (hcSt : a ≠ .cml → t.ct.cSt = s.ct.cSt) : WritesOnlyItsOwn a s t :=
  .of_br_eq (h.brDecodable hinv.inflightDecodable) h.cRx ⟨h.enc, h.ser⟩ (fun _ => h.cTx) (fun hcml _ => hcSt hcml)
    fun hcml huart => (ha.elim hcml huart).elim

theorem runAgent_writesOnlyItsOwn {a : Agent} {s t : State} (h : runAgent a s = .next t) (hinv : s.Inv) :
    WritesOnlyItsOwn a s t := by
  cases a with
  | evt => obtain rfl := Host.Outcome.next.inj h; exact evtStep_writesOnlyItsOwn s
  | bml => exact bmlStep_writesOnlyItsOwn h
  | exchange => exact exchangeStep_writesOnlyItsOwn h
  | compose => obtain rfl := Host.Outcome.next.inj h; exact composeStep_writesOnlyItsOwn s
  | cml => exact (cmlStep_frame h).1.writesOnlyItsOwn hinv (.inl rfl) (absurd rfl)
  | uart =>
    obtain ⟨hframe, -, hcSt⟩ := uartStep_frame h
    exact hframe.writesOnlyItsOwn hinv (.inr rfl) fun _ => hcSt

/-- Settles O54: agent by agent, by what its step leaves as it was. -/
theorem onlyTheOwnerWrites : Obligations.OnlyTheOwnerWrites := by
  intro a s t hinv h
  obtain ⟨hevents, hcycle, htransfer, hshared, hcTx, hcSt, hserial, hdispatch⟩ := runAgent_writesOnlyItsOwn h hinv
  exact ⟨hevents, hcycle, htransfer, hshared, hcTx, hcSt, hserial, hdispatch⟩

end Sys2Proof.Machine
end

section
/-! PROOFS. The reset statements (70_reset_and_hazards.md): the values of the reset table (R320), and that each device's reset
is its own (R321, R322, R324). -/

namespace Sys2Proof.Machine

/-! ## The state after reset, device by device -/

@[simp] theorem State.resetAt_br (c : Config) (t tC : Nat) : (State.resetAt c t tC).br = .resetAt t := rfl

@[simp] theorem State.resetAt_ct (c : Config) (t tC : Nat) : (State.resetAt c t tC).ct = .reset := rfl

/-- Settles O47: entry by entry, the table's value is the one that the reset of its device writes. -/
theorem resetHoldsTheTable : Obligations.ResetHoldsTheTable := by
  intro c t tC b k
  have hb : b = .resetAt t := State.resetAt_br c t tC
  have hk : k = .reset := State.resetAt_ct c t tC
  rw [hb, hk]
  and_intros <;> rfl

/-! ## Reset of one device -/

theorem perform_resetBridge (s : State) : perform .resetBridge s =
    .next { s with br := .resetAt s.env.now, ct := { s.ct with composed := false } } := rfl

theorem perform_resetController (s : State) : perform .resetController s = .next { s with ct := .reset } := rfl

/-- Settles O48: a device's own reset writes what the reset of both writes to that device, at the current time. -/
theorem deviceResetsAreIndependent : Obligations.DeviceResetsAreIndependent := by
  refine ⟨rfl, fun s => ⟨?_, ?_⟩⟩
  · rw [perform_resetBridge, State.resetAt_br]
  · rw [perform_resetController, State.resetAt_ct]

end Sys2Proof.Machine
end
